-- ==== Sys2Proof/Word.lean ====
section
/-! DEFINITION. The word types of RRTX and the tri-state alphabet (00_scope.md R11, R12, R13). -/

namespace Sys2Proof

/-- An 8-bit field: a character code, a group, channel, device, profile number or line id (R11). -/
abbrev Byte := BitVec 8

/-- A 16-bit field: a pulse length in microseconds or a repeat count (R11). -/
abbrev Half := BitVec 16

/-- A 24-bit code-word field, symbol `i` in bits `[2i+1:2i]` (R11, R72). -/
abbrev CodeField := BitVec 24

/-- A 64-bit command word (R11, R71). -/
abbrev CmdWord := BitVec 64

/-- A symbol of the tri-state alphabet `0`, `1`, `F` (R16, R72). A symbol string is a `List TriSym`, leftmost
symbol first (R13). -/
inductive TriSym where
  /-- the symbol `0` -/
  | s0
  /-- the symbol `1` -/
  | s1
  /-- the symbol `F`, "floating" -/
  | sF
deriving DecidableEq, Repr

/-- A string of exactly four symbols: one entry of the Type C family table (R8). -/
structure Sym4 where
  a : TriSym
  b : TriSym
  c : TriSym
  d : TriSym
deriving DecidableEq, Repr

end Sys2Proof
end

