-- ==== Sys2Proof/Syntax.lean ====
section
/-! DEFINITION. The 22 commands of RRTX, one constructor per row of spec/opcode_table.json, operands in the
field order of 30_encoding.md R76. -/

namespace Sys2Proof

/-- The commands of 30_encoding.md R77. A DIP operand is the string of its five character codes, character 0
(the first DIP switch) first (R52, R76). -/
inductive Instr where
  /-- `SET_PROFILE n` (R170) -/
  | setProfile (n : Byte)
  /-- `SET_PULSE_LEN us` (R171) -/
  | setPulseLen (us : Half)
  /-- `SET_REPEAT n` (R172) -/
  | setRepeat (n : Half)
  /-- `ENABLE_TX line` (R173) -/
  | enableTx (line : Byte)
  /-- `DISABLE_TX` (R174) -/
  | disableTx
  /-- `SEND_TRISTATE word` (R219) -/
  | sendTristate (word : CodeField)
  /-- `SWON_A dip, chan` (R211) -/
  | swonA (dip : List Byte) (chan : Byte)
  /-- `SWOFF_A dip, chan` (R212) -/
  | swoffA (dip : List Byte) (chan : Byte)
  /-- `SWON_B group, chan` (R213) -/
  | swonB (group chan : Byte)
  /-- `SWOFF_B group, chan` (R214) -/
  | swoffB (group chan : Byte)
  /-- `SWON_C family, group, dev` (R215) -/
  | swonC (family group dev : Byte)
  /-- `SWOFF_C family, group, dev` (R216) -/
  | swoffC (family group dev : Byte)
  /-- `SWON_D dip, chan` (R217) -/
  | swonD (dip : List Byte) (chan : Byte)
  /-- `SWOFF_D dip, chan` (R218) -/
  | swoffD (dip : List Byte) (chan : Byte)
  /-- `ENCON_A dip, chan` (R110) -/
  | enconA (dip : List Byte) (chan : Byte)
  /-- `ENCOFF_A dip, chan` (R111) -/
  | encoffA (dip : List Byte) (chan : Byte)
  /-- `ENCON_B group, chan` (R112) -/
  | enconB (group chan : Byte)
  /-- `ENCOFF_B group, chan` (R113) -/
  | encoffB (group chan : Byte)
  /-- `ENCON_C family, group, dev` (R114) -/
  | enconC (family group dev : Byte)
  /-- `ENCOFF_C family, group, dev` (R115) -/
  | encoffC (family group dev : Byte)
  /-- `ENCON_D dip, chan` (R116) -/
  | enconD (dip : List Byte) (chan : Byte)
  /-- `ENCOFF_D dip, chan` (R117) -/
  | encoffD (dip : List Byte) (chan : Byte)
deriving DecidableEq, Repr

end Sys2Proof
end

