-- ==== Sys2Proof/WellFormed.lean ====
section
/-! DEFINITION. Well-formed commands. Every integer, character and word operand fills its field by its type;
the one check left is that a DIP string has five characters (30_encoding.md R76, R83). Out-of-range operand
values are NOT ill-formed: they decode, and the command's own rule rejects them (R81). -/

namespace Sys2Proof

/-- A DIP operand fills format AD: exactly five characters. -/
def dipFits (dip : List Byte) : Bool := dip.length == 5

/-- The command can be written as a command word. -/
def Instr.wf : Instr → Bool
  | .setProfile _ => true
  | .setPulseLen _ => true
  | .setRepeat _ => true
  | .enableTx _ => true
  | .disableTx => true
  | .sendTristate _ => true
  | .swonA dip _ => dipFits dip
  | .swoffA dip _ => dipFits dip
  | .swonB _ _ => true
  | .swoffB _ _ => true
  | .swonC _ _ _ => true
  | .swoffC _ _ _ => true
  | .swonD dip _ => dipFits dip
  | .swoffD dip _ => dipFits dip
  | .enconA dip _ => dipFits dip
  | .encoffA dip _ => dipFits dip
  | .enconB _ _ => true
  | .encoffB _ _ => true
  | .enconC _ _ _ => true
  | .encoffC _ _ _ => true
  | .enconD dip _ => dipFits dip
  | .encoffD dip _ => dipFits dip

end Sys2Proof
end

