-- ==== Sys2Proof/Decode.lean ====
section
/-! DEFINITION. Command decoding and encoding (30_encoding.md R70 to R81) and the opcode table
(spec/opcode_table.json). A command is one 64-bit word: the opcode in bits 7:0, operands from bit 8 upward,
reserved bits above them. -/

namespace Sys2Proof

/-- The operand formats of R76. -/
inductive Format where
  | fN | fB8 | fH16 | fW | fAD | fGB | fFC
deriving DecidableEq, Repr

/-- The mnemonics of R77. -/
inductive Opcode where
  | setProfile | setPulseLen | setRepeat | enableTx | disableTx | sendTristate
  | swoffA | swonA | swoffB | swonB | swoffC | swonC | swoffD | swonD
  | encoffA | enconA | encoffB | enconB | encoffC | enconC | encoffD | enconD
deriving DecidableEq, Repr

/-- Why a word decodes to `Illegal` (R79). -/
inductive DecodeError where
  /-- the opcode byte is no row of R77 -/
  | unassignedOpcode
  /-- the opcode is assigned and a reserved bit of its format is 1 -/
  | reservedBits
deriving DecidableEq, Repr

/-- How many bits a format uses, the opcode included; every bit from there to 63 is reserved (R76). -/
def Format.usedBits : Format → Nat
  | .fN => 8
  | .fB8 => 16
  | .fH16 => 24
  | .fW => 32
  | .fAD => 56
  | .fGB => 24
  | .fFC => 32

/-- The opcode byte of a mnemonic (R77). -/
def Opcode.byte : Opcode → Byte
  | .setProfile => 0x01#8
  | .setPulseLen => 0x02#8
  | .setRepeat => 0x03#8
  | .enableTx => 0x04#8
  | .disableTx => 0x05#8
  | .sendTristate => 0x06#8
  | .swoffA => 0x10#8
  | .swonA => 0x11#8
  | .swoffB => 0x12#8
  | .swonB => 0x13#8
  | .swoffC => 0x14#8
  | .swonC => 0x15#8
  | .swoffD => 0x16#8
  | .swonD => 0x17#8
  | .encoffA => 0x20#8
  | .enconA => 0x21#8
  | .encoffB => 0x22#8
  | .enconB => 0x23#8
  | .encoffC => 0x24#8
  | .enconC => 0x25#8
  | .encoffD => 0x26#8
  | .enconD => 0x27#8

/-- The format of a mnemonic (R77). -/
def Opcode.format : Opcode → Format
  | .setProfile => .fB8
  | .setPulseLen => .fH16
  | .setRepeat => .fH16
  | .enableTx => .fB8
  | .disableTx => .fN
  | .sendTristate => .fW
  | .swoffA => .fAD
  | .swonA => .fAD
  | .swoffB => .fGB
  | .swonB => .fGB
  | .swoffC => .fFC
  | .swonC => .fFC
  | .swoffD => .fAD
  | .swonD => .fAD
  | .encoffA => .fAD
  | .enconA => .fAD
  | .encoffB => .fGB
  | .enconB => .fGB
  | .encoffC => .fFC
  | .enconC => .fFC
  | .encoffD => .fAD
  | .enconD => .fAD

/-- The mnemonic of an opcode byte, none for an unassigned one (R77). -/
def Opcode.ofByte (b : Byte) : Option Opcode :=
  match b.toNat with
  | 0x01 => some .setProfile
  | 0x02 => some .setPulseLen
  | 0x03 => some .setRepeat
  | 0x04 => some .enableTx
  | 0x05 => some .disableTx
  | 0x06 => some .sendTristate
  | 0x10 => some .swoffA
  | 0x11 => some .swonA
  | 0x12 => some .swoffB
  | 0x13 => some .swonB
  | 0x14 => some .swoffC
  | 0x15 => some .swonC
  | 0x16 => some .swoffD
  | 0x17 => some .swonD
  | 0x20 => some .encoffA
  | 0x21 => some .enconA
  | 0x22 => some .encoffB
  | 0x23 => some .enconB
  | 0x24 => some .encoffC
  | 0x25 => some .enconC
  | 0x26 => some .encoffD
  | 0x27 => some .enconD
  | _ => none

/-- The 8-bit field of a command word whose lowest bit is `lo`. -/
def field8 (w : CmdWord) (lo : Nat) : Byte := w.extractLsb' lo 8

/-- The 16-bit operand of format H16, bits 23:8. -/
def field16 (w : CmdWord) : Half := w.extractLsb' 8 16

/-- The 24-bit operand of format W, bits 31:8. -/
def field24 (w : CmdWord) : CodeField := w.extractLsb' 8 24

/-- The five DIP characters of format AD, character `i` in bits `[15+8i : 8+8i]` (R52, R76). -/
def dipField (w : CmdWord) : List Byte :=
  [field8 w 8, field8 w 16, field8 w 24, field8 w 32, field8 w 40]

/-- The channel of format AD, bits 55:48. -/
def adChan (w : CmdWord) : Byte := field8 w 48

/-- The command a mnemonic and the operand fields of a word make (R76). -/
def Opcode.withOperands (op : Opcode) (w : CmdWord) : Instr :=
  match op with
  | .setProfile => .setProfile (field8 w 8)
  | .setPulseLen => .setPulseLen (field16 w)
  | .setRepeat => .setRepeat (field16 w)
  | .enableTx => .enableTx (field8 w 8)
  | .disableTx => .disableTx
  | .sendTristate => .sendTristate (field24 w)
  | .swoffA => .swoffA (dipField w) (adChan w)
  | .swonA => .swonA (dipField w) (adChan w)
  | .swoffB => .swoffB (field8 w 8) (field8 w 16)
  | .swonB => .swonB (field8 w 8) (field8 w 16)
  | .swoffC => .swoffC (field8 w 8) (field8 w 16) (field8 w 24)
  | .swonC => .swonC (field8 w 8) (field8 w 16) (field8 w 24)
  | .swoffD => .swoffD (dipField w) (adChan w)
  | .swonD => .swonD (dipField w) (adChan w)
  | .encoffA => .encoffA (dipField w) (adChan w)
  | .enconA => .enconA (dipField w) (adChan w)
  | .encoffB => .encoffB (field8 w 8) (field8 w 16)
  | .enconB => .enconB (field8 w 8) (field8 w 16)
  | .encoffC => .encoffC (field8 w 8) (field8 w 16) (field8 w 24)
  | .enconC => .enconC (field8 w 8) (field8 w 16) (field8 w 24)
  | .encoffD => .encoffD (dipField w) (adChan w)
  | .enconD => .enconD (dipField w) (adChan w)

/-- Every reserved bit of the format is 0 in the word: nothing stands above the used bits (R76, R78). -/
def Format.reservedClear (f : Format) (w : CmdWord) : Bool := w.toNat >>> f.usedBits == 0

/-- `Decode(w)` of R78: total on all 64-bit words, and an `Illegal` word is refused by name. -/
def decode (w : CmdWord) : Except DecodeError Instr :=
  match Opcode.ofByte (field8 w 0) with
  | none => .error .unassignedOpcode
  | some op => if op.format.reservedClear w then .ok (op.withOperands w) else .error .reservedBits

/-- The number whose base-256 digits are the bytes, the first byte lowest (little-endian, R52). -/
def natOfBytes : List Byte → Nat
  | [] => 0
  | b :: rest => b.toNat + 256 * natOfBytes rest

/-- The bytes of a 16-bit operand, low byte first. -/
def bytesOf16 (v : Half) : List Byte := [v.extractLsb' 0 8, v.extractLsb' 8 8]

/-- The bytes of a 24-bit operand, low byte first. -/
def bytesOf24 (v : CodeField) : List Byte := [v.extractLsb' 0 8, v.extractLsb' 8 8, v.extractLsb' 16 8]

/-- The mnemonic of a command. -/
def Instr.opcode : Instr → Opcode
  | .setProfile _ => .setProfile
  | .setPulseLen _ => .setPulseLen
  | .setRepeat _ => .setRepeat
  | .enableTx _ => .enableTx
  | .disableTx => .disableTx
  | .sendTristate _ => .sendTristate
  | .swonA _ _ => .swonA
  | .swoffA _ _ => .swoffA
  | .swonB _ _ => .swonB
  | .swoffB _ _ => .swoffB
  | .swonC _ _ _ => .swonC
  | .swoffC _ _ _ => .swoffC
  | .swonD _ _ => .swonD
  | .swoffD _ _ => .swoffD
  | .enconA _ _ => .enconA
  | .encoffA _ _ => .encoffA
  | .enconB _ _ => .enconB
  | .encoffB _ _ => .encoffB
  | .enconC _ _ _ => .enconC
  | .encoffC _ _ _ => .encoffC
  | .enconD _ _ => .enconD
  | .encoffD _ _ => .encoffD

/-- The operand bytes of a command, from bit 8 of its word upward (R76). -/
def Instr.operandBytes : Instr → List Byte
  | .setProfile n => [n]
  | .setPulseLen us => bytesOf16 us
  | .setRepeat n => bytesOf16 n
  | .enableTx line => [line]
  | .disableTx => []
  | .sendTristate word => bytesOf24 word
  | .swonA dip chan => dip ++ [chan]
  | .swoffA dip chan => dip ++ [chan]
  | .swonB group chan => [group, chan]
  | .swoffB group chan => [group, chan]
  | .swonC family group dev => [family, group, dev]
  | .swoffC family group dev => [family, group, dev]
  | .swonD dip chan => dip ++ [chan]
  | .swoffD dip chan => dip ++ [chan]
  | .enconA dip chan => dip ++ [chan]
  | .encoffA dip chan => dip ++ [chan]
  | .enconB group chan => [group, chan]
  | .encoffB group chan => [group, chan]
  | .enconC family group dev => [family, group, dev]
  | .encoffC family group dev => [family, group, dev]
  | .enconD dip chan => dip ++ [chan]
  | .encoffD dip chan => dip ++ [chan]

/-- The command word of a command: opcode byte, operand bytes, then zeros (R71, R76). -/
def encode (i : Instr) : CmdWord :=
  BitVec.ofNat 64 (natOfBytes (i.opcode.byte :: i.operandBytes))

/-- One row of spec/opcode_table.json: a word belongs to the row when `w AND mask = pattern` (R78). -/
structure OpcodeRow where
  mnemonic : String
  op : Opcode
  pattern : CmdWord
  mask : CmdWord
deriving DecidableEq, Repr

/-- The word belongs to the row. -/
abbrev OpcodeRow.covers (r : OpcodeRow) (w : CmdWord) : Prop := w &&& r.mask = r.pattern

/-- The rows of the configuration commands and of `SEND_TRISTATE`, as spec/opcode_table.json lists them. -/
def configRows : List OpcodeRow :=
  [⟨"SET_PROFILE", .setProfile, 0x0000000000000001#64, 0xFFFFFFFFFFFF00FF#64⟩,
   ⟨"SET_PULSE_LEN", .setPulseLen, 0x0000000000000002#64, 0xFFFFFFFFFF0000FF#64⟩,
   ⟨"SET_REPEAT", .setRepeat, 0x0000000000000003#64, 0xFFFFFFFFFF0000FF#64⟩,
   ⟨"ENABLE_TX", .enableTx, 0x0000000000000004#64, 0xFFFFFFFFFFFF00FF#64⟩,
   ⟨"DISABLE_TX", .disableTx, 0x0000000000000005#64, 0xFFFFFFFFFFFFFFFF#64⟩,
   ⟨"SEND_TRISTATE", .sendTristate, 0x0000000000000006#64, 0xFFFFFFFF000000FF#64⟩]

/-- The rows of the switch commands. -/
def switchRows : List OpcodeRow :=
  [⟨"SWON_A", .swonA, 0x0000000000000011#64, 0xFF000000000000FF#64⟩,
   ⟨"SWOFF_A", .swoffA, 0x0000000000000010#64, 0xFF000000000000FF#64⟩,
   ⟨"SWON_B", .swonB, 0x0000000000000013#64, 0xFFFFFFFFFF0000FF#64⟩,
   ⟨"SWOFF_B", .swoffB, 0x0000000000000012#64, 0xFFFFFFFFFF0000FF#64⟩,
   ⟨"SWON_C", .swonC, 0x0000000000000015#64, 0xFFFFFFFF000000FF#64⟩,
   ⟨"SWOFF_C", .swoffC, 0x0000000000000014#64, 0xFFFFFFFF000000FF#64⟩,
   ⟨"SWON_D", .swonD, 0x0000000000000017#64, 0xFF000000000000FF#64⟩,
   ⟨"SWOFF_D", .swoffD, 0x0000000000000016#64, 0xFF000000000000FF#64⟩]

/-- The rows of the encode-only commands. -/
def encodeRows : List OpcodeRow :=
  [⟨"ENCON_A", .enconA, 0x0000000000000021#64, 0xFF000000000000FF#64⟩,
   ⟨"ENCOFF_A", .encoffA, 0x0000000000000020#64, 0xFF000000000000FF#64⟩,
   ⟨"ENCON_B", .enconB, 0x0000000000000023#64, 0xFFFFFFFFFF0000FF#64⟩,
   ⟨"ENCOFF_B", .encoffB, 0x0000000000000022#64, 0xFFFFFFFFFF0000FF#64⟩,
   ⟨"ENCON_C", .enconC, 0x0000000000000025#64, 0xFFFFFFFF000000FF#64⟩,
   ⟨"ENCOFF_C", .encoffC, 0x0000000000000024#64, 0xFFFFFFFF000000FF#64⟩,
   ⟨"ENCON_D", .enconD, 0x0000000000000027#64, 0xFF000000000000FF#64⟩,
   ⟨"ENCOFF_D", .encoffD, 0x0000000000000026#64, 0xFF000000000000FF#64⟩]

/-- spec/opcode_table.json. -/
def opcodeTable : List OpcodeRow := configRows ++ switchRows ++ encodeRows

/-- The command the decoder reads from a word of the opcode table: bits `nbits` and above are 0. -/
def decodeTableWord (nbits w : Nat) : Option Instr :=
  match decode (BitVec.ofNat 64 (w % 2 ^ nbits)) with
  | .ok i => some i
  | .error _ => none

end Sys2Proof
end

