-- ==== Sys2Proof/Config.lean ====
section
/-! DEFINITION. What an implementation of RRTX fixes: the parameters of 00_scope.md R6, R7, R8. -/

namespace Sys2Proof

/-- The parameters of one RRTX unit, fixed for the life of the machine (R6, R7, R8, R293). -/
structure Params where
  /-- `F_CLK`, the frequency of `clk` in Hz, at least 1 (R6). -/
  fClk : Nat
  /-- `DIP_ACCEPT_F`: also accept `'F'` as a DIP character (R7). -/
  dipAcceptF : Bool
  /-- `FAMILY_CODE` entries 1..15 (R8). Entry 0 is `"0000"` in every table and is not stored. -/
  familyRest : Vector Sym4 15
deriving DecidableEq, Repr

/-- The default `FAMILY_CODE` entries 1..15 of 10_state.md R35: letters `b` to `p`. -/
def defaultFamilyRest : Vector Sym4 15 :=
  #v[⟨.sF, .s0, .s0, .s0⟩, ⟨.s0, .sF, .s0, .s0⟩, ⟨.sF, .sF, .s0, .s0⟩, ⟨.s0, .s0, .sF, .s0⟩,
     ⟨.sF, .s0, .sF, .s0⟩, ⟨.s0, .sF, .sF, .s0⟩, ⟨.sF, .sF, .sF, .s0⟩, ⟨.s0, .s0, .s0, .sF⟩,
     ⟨.sF, .s0, .s0, .sF⟩, ⟨.s0, .sF, .s0, .sF⟩, ⟨.sF, .sF, .s0, .sF⟩, ⟨.s0, .s0, .sF, .sF⟩,
     ⟨.sF, .s0, .sF, .sF⟩, ⟨.s0, .sF, .sF, .sF⟩, ⟨.sF, .sF, .sF, .sF⟩]

/-- The parameters that `State.reset` carries: `DIP_ACCEPT_F` and `FAMILY_CODE` at the spec's defaults (R7,
R35), `F_CLK` at the value of the spec's test vectors (R6). DESIGN CHOICE for `F_CLK` (log entry 3, unsafe)
and PRESUMED by the spec itself for the table (log entry 4, unsafe): no statement rests on them. -/
def Params.default : Params where
  fClk := 1000000
  dipAcceptF := false
  familyRest := defaultFamilyRest

end Sys2Proof
end

