-- ==== Sys2Proof/Machine/State.lean ====
section
/-! DEFINITION. The state of one RRTX unit: the thirteen registers of 10_state.md R20, the parameters of
00_scope.md R6 to R8 (never written), and the values the outside world drives on the input ports in the cycles
to come (10_state.md R30; log entry 1). RRTX has no memory and no program counter (20_memory.md R50, R37). -/

namespace Sys2Proof.Machine

open Sys2Proof

/-- The active timing profile: the two values `PROFILE` ever holds (R23; log entry 5). -/
inductive Profile where
  | p1
  | p2
deriving DecidableEq, Repr

/-- The 2-bit register value of a profile: 1 or 2 (R23). -/
def Profile.code : Profile → BitVec 2
  | .p1 => 1#2
  | .p2 => 2#2

/-- The result codes 0..6 of 60_exceptions.md R250; code 7 is reserved and never written. -/
inductive ResultCode where
  /-- 0: the command did what its rule says -/
  | ok
  /-- 1: the encoder gave `Invalid` -/
  | invalidAddress
  /-- 2: `SET_PROFILE` value not 1 or 2 -/
  | badProfile
  /-- 3: `SET_PULSE_LEN 0` -/
  | badPulseLen
  /-- 4: a `SEND_TRISTATE` symbol field is `0b11` -/
  | badSymbol
  /-- 5: the collaborator's open failed -/
  | lineFault
  /-- 6: the word decodes to `Illegal` -/
  | illegalCmd
deriving DecidableEq, Repr

/-- The 3-bit register value of a result code (R250). -/
def ResultCode.code : ResultCode → BitVec 3
  | .ok => 0#3
  | .invalidAddress => 1#3
  | .badProfile => 2#3
  | .badPulseLen => 3#3
  | .badSymbol => 4#3
  | .lineFault => 5#3
  | .illegalCmd => 6#3

/-- A waveform segment: the line at `level` (true = high) for `units` elementary units (R17, R29). -/
structure Segment where
  level : Bool
  units : Nat
deriving DecidableEq, Repr

/-- The values on the input ports during one cycle (R15, R30); one clock edge ends the cycle. -/
structure PortIn where
  /-- `rst`: synchronous reset, active high -/
  rst : Bool
  /-- `cmd_valid`: the host offers a command -/
  cmdValid : Bool
  /-- `cmd_data`: the offered command word -/
  cmdData : CmdWord
  /-- `open_ok`: the collaborator's answer, sampled only where an `ENABLE_TX` is accepted (R9) -/
  openOk : Bool
deriving DecidableEq, Repr

/-- Nobody drives the ports: no reset, no command offered. The ports read so after the last entry of a
schedule (DESIGN CHOICE, log entry 1). No edge samples this `open_ok`, but `offerWord` keeps it for a word placed
over an empty schedule: an `ENABLE_TX` placed there opens (DESIGN CHOICE, log entry 2: R9 leaves the draw free). -/
def PortIn.idle : PortIn where
  rst := false
  cmdValid := false
  cmdData := 0#64
  openOk := true

/-- The state of one unit during a cycle. -/
structure State where
  /-- `BOUND`: TX holds an output line (R21) -/
  bound : Bool
  /-- `LINE_ID`: the line identifier of the last accepted `ENABLE_TX` (R22) -/
  lineId : Byte
  /-- `PROFILE`: the active timing profile (R23) -/
  profile : Profile
  /-- `PULSE_LEN`: the base unit length in microseconds (R24) -/
  pulseLen : Half
  /-- `REPEAT`: full passes per transmission (R25) -/
  repeatCnt : Half
  /-- `LAST_WORD`: the code word of the last encoding command, 0xFFFFFF where it was invalid (R26) -/
  lastWord : CodeField
  /-- `LAST_VALID`: the last encoding command had a valid result (R26) -/
  lastValid : Bool
  /-- `LAST_RESULT`: the result code of the last accepted command (R27) -/
  lastResult : ResultCode
  /-- `BUSY`: a transmission runs (R28) -/
  busy : Bool
  /-- `LINE_OUT`: the line level (R29, R208) -/
  lineOut : Bool
  /-- `TX_SEGS`: the segments still to emit after the current one (R29) -/
  txSegs : List Segment
  /-- `TX_TICKS`: the cycles left in the current segment, the current one counted (R29) -/
  txTicks : Nat
  /-- `TX_UNIT`: the cycles per elementary unit of this transmission (R29, R152) -/
  txUnit : Nat
  /-- the parameters of this unit, which no step writes (R293) -/
  params : Params
  /-- the MODEL's own field: what the input ports carry in this cycle (the head) and in the cycles after it -/
  inputs : List PortIn
deriving DecidableEq, Repr

/-- The state right after a reset edge (R20, R290), with the parameters of `Params.default` (log entries 3 and
4) and no coming input (log entry 1). -/
def State.reset : State where
  bound := false
  lineId := 0#8
  profile := .p1
  pulseLen := 350#16
  repeatCnt := 10#16
  lastWord := 0xFFFFFF#24
  lastValid := false
  lastResult := .ok
  busy := false
  lineOut := false
  txSegs := []
  txTicks := 0
  txUnit := 0
  params := Params.default
  inputs := []

/-- The faults. No command and no clock edge of a unit faults: every error RRTX has is a result code
(60_exceptions.md R250, R251, R259). -/
inductive Fault where
  /-- Raised by `System.wire` alone, where the level of a physical line is asked for that two units of a system
  drive at once: a fault of the platform, to which the spec gives no waveform (60_exceptions.md R264,
  93_implementation_defined.md I9). Safe: the model says nothing where the spec says nothing. -/
  | lineShared
deriving DecidableEq, Repr

/-- The refusals. -/
inductive Refusal where
  /-- Raised by an arm of `exec` whose instruction has no meaning yet. No arm does. Safe. -/
  | notModelled (mnemonic : String)
deriving DecidableEq, Repr

/-- What one step answers. -/
abbrev Result := Host.Outcome State Fault Refusal

end Sys2Proof.Machine
end

