-- ==== Sys2Proof/Machine/Operands.lean ====
section
/-! DEFINITION. The operand forms of the commands: tri-state symbols and code-word fields (30_encoding.md R72,
R73, R85), DIP characters (R74; 40_encoder.md R102) and the constant tables (10_state.md R33 to R36). -/

namespace Sys2Proof.Machine

open Sys2Proof

/-- The 2-bit code of a symbol (R72). -/
def symCode : TriSym → Nat
  | .s0 => 0
  | .s1 => 1
  | .sF => 2

/-- The symbol of a 2-bit code, none for the reserved code `0b11` (R72). -/
def symOfCode (c : BitVec 2) : Option TriSym :=
  match c.toNat with
  | 0 => some .s0
  | 1 => some .s1
  | 2 => some .sF
  | _ => none

/-- `Σ code(s[i]) × 4^i` (R72). -/
def packNat : List TriSym → Nat
  | [] => 0
  | s :: rest => symCode s + 4 * packNat rest

/-- The 24-bit field of a code word (R72). -/
def pack (w : List TriSym) : CodeField := BitVec.ofNat 24 (packNat w)

/-- Symbol field `i` of a 24-bit word, bits `[2i+1:2i]` (R72). -/
def symField (f : CodeField) (i : Nat) : BitVec 2 := f.extractLsb' (2 * i) 2

/-- All values of a list, or none where one of them is missing. -/
def allPresent {α : Type} : List (Option α) → Option (List α)
  | [] => some []
  | none :: _ => none
  | some a :: rest => (allPresent rest).map (a :: ·)

/-- The symbol string of a 24-bit field, none where some field is `0b11` (R73). -/
def unpack (f : CodeField) : Option (List TriSym) :=
  allPresent ((List.range 12).map fun i => symOfCode (symField f i))

/-- The field is well-formed: none of its 12 symbol fields is `0b11` (R73). -/
def wellFormedField (f : CodeField) : Bool :=
  (List.range 12).all fun i => symField f i != 3#2

/-- The invalid code-word pattern: every symbol field `0b11` (R85). -/
def invalidPattern : CodeField := 0xFFFFFF#24

/-- The ASCII codes that matter (R74): `'0'`, `'1'`, `'F'`, `'a'`, `'p'`. -/
def char0 : Byte := 0x30#8
def char1 : Byte := 0x31#8
def charF : Byte := 0x46#8
def charA : Byte := 0x61#8
def charP : Byte := 0x70#8

/-- The symbol one DIP character becomes: `'0'` gives `F`, `'1'` gives `0`, and `'F'` gives `F` where
`DIP_ACCEPT_F` (R102). -/
def dipSymbol (acceptF : Bool) (c : Byte) : Option TriSym :=
  if c = char0 then some .sF
  else if c = char1 then some .s0
  else if c = charF ∧ acceptF = true then some .sF
  else none

/-- `Dip(d)` of R102: the five transformed symbols, or none. A string of another length cannot be encoded
(R83) and is invalid here (log entry 6). -/
def dipTransform (acceptF : Bool) (d : List Byte) : Option (List TriSym) :=
  if d.length = 5 then allPresent (d.map (dipSymbol acceptF)) else none

/-- `NIBBLE` (R33). There is no entry 0: an index outside 1..4 is refused before the table is read (log
entry 6). -/
def nibble (n : Nat) : List TriSym :=
  match n with
  | 1 => [.s0, .sF, .sF, .sF]
  | 2 => [.sF, .s0, .sF, .sF]
  | 3 => [.sF, .sF, .s0, .sF]
  | 4 => [.sF, .sF, .sF, .s0]
  | _ => []

/-- `POSITION` (R34), read for 1..5 only (log entry 6). -/
def position (c : Nat) : List TriSym :=
  match c with
  | 1 => [.s0, .sF, .sF, .sF, .sF]
  | 2 => [.sF, .s0, .sF, .sF, .sF]
  | 3 => [.sF, .sF, .s0, .sF, .sF]
  | 4 => [.sF, .sF, .sF, .s0, .sF]
  | 5 => [.sF, .sF, .sF, .sF, .s0]
  | _ => []

/-- The string of a family entry. -/
def familyString (e : Sym4) : List TriSym := [e.a, e.b, e.c, e.d]

/-- `FAMILY_CODE[k]` (R8, R35): entry 0 is `"0000"` in every table, entries 1..15 are the parameter's. Read
for 0..15 only (log entry 6). -/
def familyCode (p : Params) (k : Nat) : List TriSym :=
  match k with
  | 0 => [.s0, .s0, .s0, .s0]
  | n + 1 => familyString (p.familyRest.toList.getD n ⟨.s0, .s0, .s0, .s0⟩)

/-- The unit counts of one pulse: high units, then low units (R200). -/
structure Pulse where
  high : Nat
  low : Nat
deriving DecidableEq, Repr

/-- One row of `PROFILES` (R36). -/
structure Timing where
  bit0 : Pulse
  bit1 : Pulse
  sync : Pulse
  defaultLen : Half
deriving DecidableEq, Repr

/-- `PROFILES` (R36). -/
def timing : Profile → Timing
  | .p1 => ⟨⟨1, 3⟩, ⟨3, 1⟩, ⟨1, 31⟩, 350#16⟩
  | .p2 => ⟨⟨1, 2⟩, ⟨2, 1⟩, ⟨1, 10⟩, 650#16⟩

/-- The profile that a `SET_PROFILE` operand selects, none for a value other than 1 and 2 (R170). -/
def profileOf (n : Byte) : Option Profile :=
  match n.toNat with
  | 1 => some .p1
  | 2 => some .p2
  | _ => none

end Sys2Proof.Machine
end

