-- ==== Sys2Proof/Machine/Encoder.lean ====
section
/-! DEFINITION. ENC, the code-word encoder (40_encoder.md R100 to R108): four pure functions. -/

namespace Sys2Proof.Machine

open Sys2Proof

/-- The result of an encoder: a 12-symbol word, or `Invalid` (R100). -/
inductive EncResult where
  | valid (w : List TriSym)
  | invalid
deriving DecidableEq, Repr

/-- `Bin(v, n)` of R101: the `n` low binary digits of `v`, most significant first. -/
def bin (v : Nat) : Nat → List Nat
  | 0 => []
  | n + 1 => bin (v / 2) n ++ [v % 2]

/-- The status symbol of Types B and C: `F` for on, `0` for off (R103, R106). -/
def statusSymbol (on : Bool) : List TriSym := if on then [.sF] else [.s0]

/-- The status suffix of Types A and D: `"0F"` for on, `"F0"` for off (R104, R105). -/
def statusSuffix (on : Bool) : List TriSym := if on then [.s0, .sF] else [.sF, .s0]

/-- An operand in `lo..hi`. -/
abbrev inRange (v : Byte) (lo hi : Nat) : Prop := lo ≤ v.toNat ∧ v.toNat ≤ hi

/-- `Enc_A(d, chan, on)` of R104. -/
def encA (p : Params) (dip : List Byte) (chan : Byte) (on : Bool) : EncResult :=
  match dipTransform p.dipAcceptF dip with
  | none => .invalid
  | some t =>
    if inRange chan 1 5 then .valid (t ++ position chan.toNat ++ statusSuffix on) else .invalid

/-- `Enc_B(group, chan, on)` of R103. -/
def encB (group chan : Byte) (on : Bool) : EncResult :=
  if inRange group 1 4 ∧ inRange chan 1 4 then
    .valid (nibble group.toNat ++ nibble chan.toNat ++ [.sF, .sF, .sF] ++ statusSymbol on)
  else .invalid

/-- A binary digit of a Type C index: 1 becomes `F`, 0 becomes `0` (R106). -/
def indexSymbol (b : Nat) : TriSym := if b = 1 then .sF else .s0

/-- `Enc_C(fam, group, dev, on)` of R106. -/
def encC (p : Params) (fam group dev : Byte) (on : Bool) : EncResult :=
  if inRange fam charA.toNat charP.toNat ∧ inRange group 1 4 ∧ inRange dev 1 4 then
    .valid (familyCode p (fam.toNat - charA.toNat)
      ++ (bin ((dev.toNat - 1) + (group.toNat - 1) * 4) 4).map indexSymbol
      ++ [.s0, .sF, .sF] ++ statusSymbol on)
  else .invalid

/-- A binary digit of a Type D channel: 1 becomes `0`, 0 becomes `F` (R105). -/
def channelSymbol (b : Nat) : TriSym := if b = 1 then .s0 else .sF

/-- `Enc_D(d, chan, on)` of R105. -/
def encD (p : Params) (dip : List Byte) (chan : Byte) (on : Bool) : EncResult :=
  match dipTransform p.dipAcceptF dip with
  | none => .invalid
  | some t =>
    if inRange chan 1 31 then
      .valid (t ++ (bin chan.toNat 5).map channelSymbol ++ statusSuffix on)
    else .invalid

end Sys2Proof.Machine
end

