-- ==== Sys2Proof/Machine/Flags.lean ====
section
/-! DEFINITION. The status word and the output ports (10_state.md R30, R31, R32). RRTX has no condition flags;
the fields of `STATUS` are the only flags (R37). -/

namespace Sys2Proof.Machine

open Sys2Proof

/-- The `STATUS` word of R31, from bit 31 down: 21 reserved bits, `LAST_RESULT`, 3 reserved bits, `LAST_VALID`,
`PROFILE`, `BOUND`, `BUSY`. -/
def State.status (s : State) : BitVec 32 :=
  0#21 ++ s.lastResult.code ++ 0#3 ++ BitVec.ofBool s.lastValid ++ s.profile.code
    ++ BitVec.ofBool s.bound ++ BitVec.ofBool s.busy

/-- The values on the output ports during a cycle (R30). -/
structure PortOut where
  /-- `cmd_ready` -/
  cmdReady : Bool
  /-- `LINE_OUT` -/
  lineOut : Bool
  /-- `LINE_OE` -/
  lineOe : Bool
  /-- `LINE_SEL` -/
  lineSel : Byte
  /-- `STATUS` -/
  status : BitVec 32
  /-- `CFG_PULSE_LEN` -/
  cfgPulseLen : Half
  /-- `CFG_REPEAT` -/
  cfgRepeat : Half
  /-- `LAST_WORD` -/
  lastWord : CodeField
deriving DecidableEq, Repr

/-- Every output port is a function of the registers alone (R2, R30, R32). -/
def State.ports (s : State) : PortOut where
  cmdReady := !s.busy
  lineOut := s.lineOut
  lineOe := s.bound
  lineSel := s.lineId
  status := s.status
  cfgPulseLen := s.pulseLen
  cfgRepeat := s.repeatCnt
  lastWord := s.lastWord

end Sys2Proof.Machine
end

