-- ==== Sys2Proof/Machine/Timebase.lean ====
section
/-! DEFINITION. The unit timer (41_timebase.md R150 to R156). One step of the model is one tick of `clk`. -/

namespace Sys2Proof.Machine

open Sys2Proof

/-- `UNIT_CYC(us) = ceil(us × F_CLK / 1_000_000)` (R151): the cycles of one elementary unit. -/
def unitCyc (p : Params) (us : Half) : Nat := (us.toNat * p.fClk + 999999) / 1000000

end Sys2Proof.Machine
end

