-- ==== Sys2Proof/Machine/Waveform.lean ====
section
/-! DEFINITION. The waveform of a code word (43_transmit.md R200 to R203). -/

namespace Sys2Proof.Machine

open Sys2Proof

/-- A pulse: high for its high units, then low for its low units (R200). -/
def pulseSegs (p : Pulse) : List Segment := [⟨true, p.high⟩, ⟨false, p.low⟩]

/-- The segments of one symbol: `0` is two bit0 pulses, `1` two bit1 pulses, `F` a bit0 then a bit1 pulse
(R201). -/
def symbolSegs (p : Profile) : TriSym → List Segment
  | .s0 => pulseSegs (timing p).bit0 ++ pulseSegs (timing p).bit0
  | .s1 => pulseSegs (timing p).bit1 ++ pulseSegs (timing p).bit1
  | .sF => pulseSegs (timing p).bit0 ++ pulseSegs (timing p).bit1

/-- The segments of a symbol string, in index order (R53). -/
def wordSegs (p : Profile) : List TriSym → List Segment
  | [] => []
  | s :: rest => symbolSegs p s ++ wordSegs p rest

/-- One pass: every symbol, then the sync pulse (R202). -/
def passSegs (p : Profile) (w : List TriSym) : List Segment :=
  wordSegs p w ++ pulseSegs (timing p).sync

/-- `n` copies of a segment list, one after the other with no gap. -/
def copies (n : Nat) (segs : List Segment) : List Segment :=
  match n with
  | 0 => []
  | k + 1 => segs ++ copies k segs

/-- `Waveform(w, p, n)`: `n` passes (R203). -/
def waveform (w : List TriSym) (p : Profile) (n : Nat) : List Segment := copies n (passSegs p w)

end Sys2Proof.Machine
end

