-- ==== Sys2Proof/Machine/Ops.lean ====
section
/-! DEFINITION. The operations the commands and the clock edge share: ending a command with a result code (what
RRTX has in place of an exception, 60_exceptions.md R251, R259), latching an encoder result (40_encoder.md
R109), starting and stepping the serializer (43_transmit.md R204 to R206), reset (70_reset_and_hazards.md
R290), and the input ports. -/

namespace Sys2Proof.Machine

open Sys2Proof

/-- `raise Result(code)` of 00_scope.md R14: writes `LAST_RESULT` and nothing else. It is not a trap (R251). -/
def raiseResult (c : ResultCode) (s : State) : State := { s with lastResult := c }

/-- `finish` of R14: ends the command with `OK`. -/
def finish (s : State) : State := raiseResult .ok s

/-- `Latch(r)` of R109. -/
def latch (r : EncResult) (s : State) : State :=
  match r with
  | .invalid => { s with lastWord := invalidPattern, lastValid := false, lastResult := .invalidAddress }
  | .valid w => { s with lastWord := pack w, lastValid := true, lastResult := .ok }

/-- `Start(segs)` of R205. It is called with a non-empty list only; with an empty one it starts nothing (log
entry 6). -/
def start (segs : List Segment) (s : State) : State :=
  match segs with
  | [] => s
  | first :: rest =>
    { s with
      txUnit := unitCyc s.params s.pulseLen
      lineOut := true
      txTicks := first.units * unitCyc s.params s.pulseLen
      txSegs := rest
      busy := true }

/-- `Transmit(w)` of R204: nothing while unbound or with `REPEAT = 0`, else start the waveform. -/
def transmit (w : List TriSym) (s : State) : State :=
  if s.bound = false then s
  else if s.repeatCnt = 0#16 then s
  else start (waveform w s.profile s.repeatCnt.toNat) s

/-- What every `ENC*` command does with its encoder result (40_encoder.md section 3). -/
def encodeOnly (r : EncResult) (s : State) : Result := .next (latch r s)

/-- What every `SW*` command does with its encoder result: latch it, then transmit a valid word
(43_transmit.md R211 to R218). -/
def encodeAndSend (r : EncResult) (s : State) : Result :=
  match r with
  | .invalid => .next (latch .invalid s)
  | .valid w => .next (transmit w (latch (.valid w) s))

/-- The serializer step of R206, taken at every edge with `BUSY = 1` and no reset. -/
def serializerStep (s : State) : State :=
  if 1 < s.txTicks then { s with txTicks := s.txTicks - 1 }
  else
    match s.txSegs with
    | seg :: rest => { s with lineOut := seg.level, txTicks := seg.units * s.txUnit, txSegs := rest }
    | [] => { s with lineOut := false, txTicks := 0, busy := false }

/-- Every register takes its reset value; the parameters and what the outside drives next are untouched
(R290, R293). -/
def resetRegisters (s : State) : State := { State.reset with params := s.params, inputs := s.inputs }

/-- What the input ports carry in this cycle (R15); idle after the last entry (log entry 1). -/
def State.pins (s : State) : PortIn := s.inputs.headD PortIn.idle

/-- The cycle is over: the ports carry the next entry. -/
def State.advance (s : State) : State := { s with inputs := s.inputs.tail }

/-- The cycle is over in whatever state an edge ends. -/
def advanceOutcome : Result → Result
  | .next t => .next t.advance
  | .fault r => .fault r
  | .refused r => .refused r

/-- The host offers the word in this cycle, with no reset, to a unit that is ready: the serializer is put to
rest where it runs, since a busy unit accepts nothing (R70). `open_ok` stays what the schedule says, which is 1
where the schedule is empty (DESIGN CHOICE, log entry 2: R9 leaves the draw free), and the cycles after this one are
untouched. -/
def offerWord (w : CmdWord) (s : State) : State :=
  { s with
    busy := false
    lineOut := false
    txSegs := []
    txTicks := 0
    inputs := { rst := false, cmdValid := true, cmdData := w, openOk := s.pins.openOk } :: s.inputs.tail }

end Sys2Proof.Machine
end

