-- ==== Sys2Proof/Machine/ConfigCmd.lean ====
section
/-! DEFINITION. The configuration commands (42_transmitter_config.md R170 to R174). -/

namespace Sys2Proof.Machine

open Sys2Proof

/-- `SET_PROFILE n` (R170): the profile and its default pulse length, or `BAD_PROFILE`. -/
def execSetProfile (n : Byte) (s : State) : Result :=
  match profileOf n with
  | none => .next (raiseResult .badProfile s)
  | some p => .next (finish { s with profile := p, pulseLen := (timing p).defaultLen })

/-- `SET_PULSE_LEN us` (R171): the pulse length, or `BAD_PULSE_LEN` for 0. -/
def execSetPulseLen (us : Half) (s : State) : Result :=
  if us = 0#16 then .next (raiseResult .badPulseLen s) else .next (finish { s with pulseLen := us })

/-- `SET_REPEAT n` (R172). -/
def execSetRepeat (n : Half) (s : State) : Result := .next (finish { s with repeatCnt := n })

/-- `ENABLE_TX line` (R173): binds to the line where the collaborator opens it, else unbinds with
`LINE_FAULT`; `LINE_ID` is written either way. -/
def execEnableTx (line : Byte) (s : State) : Result :=
  if s.pins.openOk then .next (finish { s with lineId := line, bound := true })
  else .next (raiseResult .lineFault { s with lineId := line, bound := false })

/-- `DISABLE_TX` (R174): unbinds and keeps `LINE_ID`. -/
def execDisableTx (s : State) : Result := .next (finish { s with bound := false })

end Sys2Proof.Machine
end

