-- ==== Sys2Proof/Machine/EncodeCmd.lean ====
section
/-! DEFINITION. The encode-only commands (40_encoder.md R110 to R117): latch the encoder result, emit nothing. -/

namespace Sys2Proof.Machine

open Sys2Proof

/-- `ENCON_A` (R110). -/
def execEnconA (dip : List Byte) (chan : Byte) (s : State) : Result :=
  encodeOnly (encA s.params dip chan true) s

/-- `ENCOFF_A` (R111). -/
def execEncoffA (dip : List Byte) (chan : Byte) (s : State) : Result :=
  encodeOnly (encA s.params dip chan false) s

/-- `ENCON_B` (R112). -/
def execEnconB (group chan : Byte) (s : State) : Result :=
  encodeOnly (encB group chan true) s

/-- `ENCOFF_B` (R113). -/
def execEncoffB (group chan : Byte) (s : State) : Result :=
  encodeOnly (encB group chan false) s

/-- `ENCON_C` (R114). -/
def execEnconC (family group dev : Byte) (s : State) : Result :=
  encodeOnly (encC s.params family group dev true) s

/-- `ENCOFF_C` (R115). -/
def execEncoffC (family group dev : Byte) (s : State) : Result :=
  encodeOnly (encC s.params family group dev false) s

/-- `ENCON_D` (R116). -/
def execEnconD (dip : List Byte) (chan : Byte) (s : State) : Result :=
  encodeOnly (encD s.params dip chan true) s

/-- `ENCOFF_D` (R117). -/
def execEncoffD (dip : List Byte) (chan : Byte) (s : State) : Result :=
  encodeOnly (encD s.params dip chan false) s

end Sys2Proof.Machine
end

