-- ==== Sys2Proof/Machine/SendCmd.lean ====
section
/-! DEFINITION. The transmitting commands (43_transmit.md R211 to R219). -/

namespace Sys2Proof.Machine

open Sys2Proof

/-- `SEND_TRISTATE word` (R219): `BAD_SYMBOL` where a symbol field is reserved, else send the word as it is.
`LAST_WORD` and `LAST_VALID` are not written. -/
def execSendTristate (word : CodeField) (s : State) : Result :=
  match unpack word with
  | none => .next (raiseResult .badSymbol s)
  | some w => .next (transmit w (finish s))

/-- `SWON_A` (R211). -/
def execSwonA (dip : List Byte) (chan : Byte) (s : State) : Result :=
  encodeAndSend (encA s.params dip chan true) s

/-- `SWOFF_A` (R212). -/
def execSwoffA (dip : List Byte) (chan : Byte) (s : State) : Result :=
  encodeAndSend (encA s.params dip chan false) s

/-- `SWON_B` (R213). -/
def execSwonB (group chan : Byte) (s : State) : Result :=
  encodeAndSend (encB group chan true) s

/-- `SWOFF_B` (R214). -/
def execSwoffB (group chan : Byte) (s : State) : Result :=
  encodeAndSend (encB group chan false) s

/-- `SWON_C` (R215). -/
def execSwonC (family group dev : Byte) (s : State) : Result :=
  encodeAndSend (encC s.params family group dev true) s

/-- `SWOFF_C` (R216). -/
def execSwoffC (family group dev : Byte) (s : State) : Result :=
  encodeAndSend (encC s.params family group dev false) s

/-- `SWON_D` (R217). -/
def execSwonD (dip : List Byte) (chan : Byte) (s : State) : Result :=
  encodeAndSend (encD s.params dip chan true) s

/-- `SWOFF_D` (R218). -/
def execSwoffD (dip : List Byte) (chan : Byte) (s : State) : Result :=
  encodeAndSend (encD s.params dip chan false) s

end Sys2Proof.Machine
end

