-- ==== Sys2Proof/Machine/Dispatch.lean ====
section
/-! DEFINITION. The meaning of every command: its register effects at the edge that accepts it (20_memory.md
R56), one arm per constructor of Instr. -/

namespace Sys2Proof.Machine

open Sys2Proof

def exec (i : Instr) (s : State) : Host.Outcome State Fault Refusal :=
  match i with
  | .setProfile n => Sys2Proof.Machine.execSetProfile n s
  | .setPulseLen us => Sys2Proof.Machine.execSetPulseLen us s
  | .setRepeat n => Sys2Proof.Machine.execSetRepeat n s
  | .enableTx line => Sys2Proof.Machine.execEnableTx line s
  | .disableTx => Sys2Proof.Machine.execDisableTx s
  | .sendTristate word => Sys2Proof.Machine.execSendTristate word s
  | .swonA dip chan => Sys2Proof.Machine.execSwonA dip chan s
  | .swoffA dip chan => Sys2Proof.Machine.execSwoffA dip chan s
  | .swonB group chan => Sys2Proof.Machine.execSwonB group chan s
  | .swoffB group chan => Sys2Proof.Machine.execSwoffB group chan s
  | .swonC family group dev => Sys2Proof.Machine.execSwonC family group dev s
  | .swoffC family group dev => Sys2Proof.Machine.execSwoffC family group dev s
  | .swonD dip chan => Sys2Proof.Machine.execSwonD dip chan s
  | .swoffD dip chan => Sys2Proof.Machine.execSwoffD dip chan s
  | .enconA dip chan => Sys2Proof.Machine.execEnconA dip chan s
  | .encoffA dip chan => Sys2Proof.Machine.execEncoffA dip chan s
  | .enconB group chan => Sys2Proof.Machine.execEnconB group chan s
  | .encoffB group chan => Sys2Proof.Machine.execEncoffB group chan s
  | .enconC family group dev => Sys2Proof.Machine.execEnconC family group dev s
  | .encoffC family group dev => Sys2Proof.Machine.execEncoffC family group dev s
  | .enconD dip chan => Sys2Proof.Machine.execEnconD dip chan s
  | .encoffD dip chan => Sys2Proof.Machine.execEncoffD dip chan s

end Sys2Proof.Machine
end

