-- ==== Sys2Proof/Machine/Edge.lean ====
section
/-! DEFINITION. The clock edge: `S_{t+1} = Step(S_t, In_t)` (00_scope.md R15). Reset wins, then the serializer
step, then at most one accepted command (60_exceptions.md R256). -/

namespace Sys2Proof.Machine

open Sys2Proof

/-- A command is accepted at this edge (R70): offered, not busy, no reset. -/
def State.accepts (s : State) : Bool := s.pins.cmdValid && !s.busy && !s.pins.rst

/-- The effect of accepting a word: its command's, or `ILLEGAL_CMD` and nothing else (R78, R79). -/
def acceptWord (w : CmdWord) (s : State) : Result :=
  match decode w with
  | .ok i => exec i s
  | .error _ => .next (raiseResult .illegalCmd s)

/-- The registers' update at this edge. At an edge with `BUSY = 0` and no accepted command no register changes
(R206). -/
def edgeEffect (s : State) : Result :=
  if s.pins.rst then .next (resetRegisters s)
  else if s.busy then .next (serializerStep s)
  else if s.pins.cmdValid then acceptWord s.pins.cmdData s
  else .next s

/-- One clock edge: the registers' update, and the ports carry the next cycle's inputs. -/
def clockEdge (s : State) : Result := advanceOutcome (edgeEffect s)

end Sys2Proof.Machine
end

