-- ==== Sys2Proof/Machine/Step.lean ====
section
/-! DEFINITION. One step of RRTX is one rising edge of `clk` (00_scope.md R2, R15). -/

namespace Sys2Proof.Machine

open Sys2Proof

/-- One rising edge of `clk`. -/
def step (s : State) : Host.Outcome State Fault Refusal := clockEdge s

/-- The state in which the next edge accepts and runs the command word `w`, bits `nbits` and above 0: RRTX
fetches nothing, so the host offers the word on its port (20_memory.md R61; log entry 2). -/
def State.withFetchWord (s : State) (nbits w : Nat) : State :=
  offerWord (BitVec.ofNat 64 (w % 2 ^ nbits)) s

end Sys2Proof.Machine
end

