-- ==== Sys2Proof/Machine/Assembler.lean ====
section
/-! DEFINITION. The assembly text of 30_encoding.md R82 and the source operations of R83. This is how a host
writes commands down; the hardware sees only the 64-bit words (`encode`). White space around mnemonics and
operands is skipped, and the other points R82 leaves open are settled as log entry 10 says. -/

namespace Sys2Proof.Machine

open Sys2Proof

/-- The mnemonic text of R77. -/
def mnemonicText : Opcode → List Char
  | .setProfile => "SET_PROFILE".toList
  | .setPulseLen => "SET_PULSE_LEN".toList
  | .setRepeat => "SET_REPEAT".toList
  | .enableTx => "ENABLE_TX".toList
  | .disableTx => "DISABLE_TX".toList
  | .sendTristate => "SEND_TRISTATE".toList
  | .swoffA => "SWOFF_A".toList
  | .swonA => "SWON_A".toList
  | .swoffB => "SWOFF_B".toList
  | .swonB => "SWON_B".toList
  | .swoffC => "SWOFF_C".toList
  | .swonC => "SWON_C".toList
  | .swoffD => "SWOFF_D".toList
  | .swonD => "SWON_D".toList
  | .encoffA => "ENCOFF_A".toList
  | .enconA => "ENCON_A".toList
  | .encoffB => "ENCOFF_B".toList
  | .enconB => "ENCON_B".toList
  | .encoffC => "ENCOFF_C".toList
  | .enconC => "ENCON_C".toList
  | .encoffD => "ENCOFF_D".toList
  | .enconD => "ENCON_D".toList

/-- Every mnemonic. -/
def allOpcodes : List Opcode :=
  [.setProfile, .setPulseLen, .setRepeat, .enableTx, .disableTx, .sendTristate, .swoffA, .swonA, .swoffB,
   .swonB, .swoffC, .swonC, .swoffD, .swonD, .encoffA, .enconA, .encoffB, .enconB, .encoffC, .enconC,
   .encoffD, .enconD]

/-- An operand as it stands in a line (R82). -/
inductive AsmOperand where
  /-- a number, decimal or `0x` hexadecimal -/
  | num (n : Nat)
  /-- a string in double quotes: its character codes -/
  | str (codes : List Byte)
  /-- a character in single quotes: its code -/
  | chr (code : Byte)
deriving DecidableEq, Repr

/-- A decimal digit. -/
def decDigit (c : Char) : Option Nat :=
  if 48 ≤ c.toNat ∧ c.toNat ≤ 57 then some (c.toNat - 48) else none

/-- A hexadecimal digit. -/
def hexDigit (c : Char) : Option Nat :=
  if 48 ≤ c.toNat ∧ c.toNat ≤ 57 then some (c.toNat - 48)
  else if 97 ≤ c.toNat ∧ c.toNat ≤ 102 then some (c.toNat - 87)
  else if 65 ≤ c.toNat ∧ c.toNat ≤ 70 then some (c.toNat - 55)
  else none

/-- The number that the digits spell, most significant first, after the value read so far. -/
def digitsFrom (radix : Nat) (digit : Char → Option Nat) (acc : Nat) : List Char → Option Nat
  | [] => some acc
  | c :: rest =>
    match digit c with
    | none => none
    | some d => digitsFrom radix digit (radix * acc + d) rest

/-- A number: decimal, or hexadecimal with `0x` (R82). -/
def parseNumber : List Char → Option Nat
  | [] => none
  | ['0', 'x'] => none
  | '0' :: 'x' :: ds => digitsFrom 16 hexDigit 0 ds
  | ds => digitsFrom 10 decDigit 0 ds

/-- The 8-bit code of a character, none where it does not fit (R74, R83). R82 gives ASCII codes, so none to the
code points 128 to 255: there the code point itself is taken (DESIGN CHOICE, log entry 10). -/
def charByte (c : Char) : Option Byte :=
  if c.toNat < 256 then some (BitVec.ofNat 8 c.toNat) else none

/-- The character codes of a quoted text; `\xNN` writes the code `NN` (R82, which gives this for a DIP string). DESIGN
CHOICE (log entry 10): it is read in every quoted text, a backslash that is not followed by an `x` and two more
characters stands for itself, and where those two are not hexadecimal digits the text is refused. -/
def parseCodes : List Char → Option (List Byte)
  | [] => some []
  | '\\' :: 'x' :: a :: b :: rest =>
    match hexDigit a, hexDigit b, parseCodes rest with
    | some h, some l, some bs => some (BitVec.ofNat 8 (16 * h + l) :: bs)
    | _, _, _ => none
  | c :: rest =>
    match charByte c, parseCodes rest with
    | some b, some bs => some (b :: bs)
    | _, _ => none

/-- The text between an opening quote and the same quote at the end of the operand. DESIGN CHOICE (log entry 10):
quotes of the same kind between these two are characters of the text. -/
def unquote (q : Char) (cs : List Char) : Option (List Char) :=
  match cs.reverse with
  | c :: body => if c = q then some body.reverse else none
  | [] => none

/-- One operand (R82). -/
def parseOperand : List Char → Option AsmOperand
  | '"' :: rest => ((unquote '"' rest).bind parseCodes).map .str
  | '\'' :: rest =>
    match (unquote '\'' rest).bind parseCodes with
    | some [b] => some (.chr b)
    | _ => none
  | cs => (parseNumber cs).map .num

/-- A text without the blanks around it. -/
def trimBlanks (cs : List Char) : List Char :=
  let blank := fun c : Char => c == ' ' || c == '\t'
  ((cs.dropWhile blank).reverse.dropWhile blank).reverse

/-- The operand texts of a line: cut at the commas outside quotes. `quote` is the quote now open. DESIGN CHOICE (log
entry 10): R82 does not say how a quote character inside quotes is read. Here the next quote of the same kind closes
the open one, so a comma after an odd number of them is no separator; a quote of the other kind is a character. -/
def splitOperands (quote : Option Char) (acc : List Char) : List Char → List (List Char)
  | [] => [acc.reverse]
  | c :: rest =>
    match quote with
    | some q => splitOperands (if c = q then none else some q) (c :: acc) rest
    | none =>
      if c = ',' then acc.reverse :: splitOperands none [] rest
      else splitOperands (if c = '"' ∨ c = '\'' then some c else none) (c :: acc) rest

/-- A number that fits an 8-bit field (R83). -/
def byteArg (n : Nat) : Option Byte := if n < 256 then some (BitVec.ofNat 8 n) else none

/-- A number that fits a 16-bit field (R83). -/
def halfArg (n : Nat) : Option Half := if n < 65536 then some (BitVec.ofNat 16 n) else none

/-- A number that fits a 24-bit field (R82). -/
def fieldArg (n : Nat) : Option CodeField := if n < 16777216 then some (BitVec.ofNat 24 n) else none

/-- The 2-bit field that one character of a word operand writes: `0`, `1`, `F`, or `X` for the reserved code
(R82). -/
def wordChar (c : Byte) : Option Nat :=
  if c = char0 then some 0 else if c = char1 then some 1 else if c = charF then some 2
  else if c = 0x58#8 then some 3 else none

/-- The value of symbol fields, field 0 lowest (R72). -/
def natOfFields : List Nat → Nat
  | [] => 0
  | f :: rest => f + 4 * natOfFields rest

/-- A word operand written as a string: 12 characters, leftmost = symbol 0 (R82). -/
def wordArg (codes : List Byte) : Option CodeField :=
  if codes.length = 12 then
    (allPresent (codes.map wordChar)).map fun fs => BitVec.ofNat 24 (natOfFields fs)
  else none

/-- A DIP operand: a string of five characters (R82, R83). -/
def dipArg (codes : List Byte) : Option (List Byte) := if codes.length = 5 then some codes else none

/-- The operands of an `AD` command (R82). -/
def adArgs (make : List Byte → Byte → Instr) (dip : List Byte) (chan : Nat) : Option Instr :=
  match dipArg dip, byteArg chan with
  | some d, some c => some (make d c)
  | _, _ => none

/-- The operands of a `GB` command (R82). -/
def gbArgs (make : Byte → Byte → Instr) (group chan : Nat) : Option Instr :=
  match byteArg group, byteArg chan with
  | some g, some c => some (make g c)
  | _, _ => none

/-- The operands of an `FC` command (R82). -/
def fcArgs (make : Byte → Byte → Byte → Instr) (family : Option Byte) (group dev : Nat) : Option Instr :=
  match family, byteArg group, byteArg dev with
  | some f, some g, some d => some (make f g d)
  | _, _, _ => none

/-- The command of a mnemonic and its operands, none where they do not fit (R82, R83). -/
def assembleOperands (op : Opcode) (args : List AsmOperand) : Option Instr :=
  match op, args with
  | .setProfile, [.num n] => (byteArg n).map .setProfile
  | .setPulseLen, [.num n] => (halfArg n).map .setPulseLen
  | .setRepeat, [.num n] => (halfArg n).map .setRepeat
  | .enableTx, [.num n] => (byteArg n).map .enableTx
  | .disableTx, [] => some .disableTx
  | .sendTristate, [.str w] => (wordArg w).map .sendTristate
  | .sendTristate, [.num n] => (fieldArg n).map .sendTristate
  | .swonA, [.str d, .num c] => adArgs .swonA d c
  | .swoffA, [.str d, .num c] => adArgs .swoffA d c
  | .swonB, [.num g, .num c] => gbArgs .swonB g c
  | .swoffB, [.num g, .num c] => gbArgs .swoffB g c
  | .swonC, [.chr f, .num g, .num d] => fcArgs .swonC (some f) g d
  | .swonC, [.num f, .num g, .num d] => fcArgs .swonC (byteArg f) g d
  | .swoffC, [.chr f, .num g, .num d] => fcArgs .swoffC (some f) g d
  | .swoffC, [.num f, .num g, .num d] => fcArgs .swoffC (byteArg f) g d
  | .swonD, [.str d, .num c] => adArgs .swonD d c
  | .swoffD, [.str d, .num c] => adArgs .swoffD d c
  | .enconA, [.str d, .num c] => adArgs .enconA d c
  | .encoffA, [.str d, .num c] => adArgs .encoffA d c
  | .enconB, [.num g, .num c] => gbArgs .enconB g c
  | .encoffB, [.num g, .num c] => gbArgs .encoffB g c
  | .enconC, [.chr f, .num g, .num d] => fcArgs .enconC (some f) g d
  | .enconC, [.num f, .num g, .num d] => fcArgs .enconC (byteArg f) g d
  | .encoffC, [.chr f, .num g, .num d] => fcArgs .encoffC (some f) g d
  | .encoffC, [.num f, .num g, .num d] => fcArgs .encoffC (byteArg f) g d
  | .enconD, [.str d, .num c] => adArgs .enconD d c
  | .encoffD, [.str d, .num c] => adArgs .encoffD d c
  | _, _ => none

/-- The operands of a line after its mnemonic: none at all, or texts separated by commas (R82). -/
def parseOperands (cs : List Char) : Option (List AsmOperand) :=
  match trimBlanks cs with
  | [] => some []
  | t => allPresent ((splitOperands none [] t).map fun o => parseOperand (trimBlanks o))

/-- One line of assembly: a mnemonic of R77, then its operands (R82). DESIGN CHOICE (log entry 12): a source
operation of R83 is no line of this text; it is a `SourceOp`, and `SourceOp.expand` gives its command. -/
def assembleLine (line : List Char) : Option Instr :=
  let t := trimBlanks line
  let word := t.takeWhile fun c => c != ' ' && c != '\t'
  match allOpcodes.find? (fun op => mnemonicText op == word), parseOperands (t.drop word.length) with
  | some op, some args => assembleOperands op args
  | _, _ => none

/-- The operations of the source's surface (R83), with the arguments a caller may pass: any integer, any
string, any character. Values and not text: R83 gives them no concrete syntax (DESIGN CHOICE, log entry 12). The word of
`sendTriState` is a string and the family of `switchOn`, `switchOff` and `encodeTypeC` a character, though the operand
of R82 they expand to may also be a number (DESIGN CHOICE, log entry 12). -/
inductive SourceOp where
  /-- `switchOn(group, channel)` and `switchOff(group, channel)`, two integers -/
  | switchGroup (on : Bool) (group channel : Int)
  /-- `switchOn(dip, channel)` and `switchOff(dip, channel)`, a string and an integer -/
  | switchDip (on : Bool) (dip : List Char) (channel : Int)
  /-- `switchOnBinary(dip, channel)` and `switchOffBinary(dip, channel)` -/
  | switchBinary (on : Bool) (dip : List Char) (channel : Int)
  /-- `switchOn(family, group, device)` and `switchOff(family, group, device)` -/
  | switchFamily (on : Bool) (family : Char) (group device : Int)
  | setProtocol (n : Int)
  | setProfile (n : Int)
  | setPulseLength (us : Int)
  | setRepeatCount (n : Int)
  | enableTransmit (lineId : Int)
  | disableTransmit
  | sendTriState (word : List Char)
  | encodeTypeA (dip : List Char) (c : Int) (on : Bool)
  | encodeTypeB (g c : Int) (on : Bool)
  | encodeTypeC (f : Char) (g d : Int) (on : Bool)
  | encodeTypeD (dip : List Char) (c : Int) (on : Bool)
deriving DecidableEq, Repr

/-- An integer argument as a natural number, none for a negative one (R83). -/
def natArg (v : Int) : Option Nat := if 0 ≤ v then some v.toNat else none

/-- An `AD` command of a string and an integer (R83). -/
def adSource (make : List Byte → Byte → Instr) (dip : List Char) (chan : Int) : Option Instr :=
  match allPresent (dip.map charByte), natArg chan with
  | some d, some c => adArgs make d c
  | _, _ => none

/-- A `GB` command of two integers (R83). -/
def gbSource (make : Byte → Byte → Instr) (group chan : Int) : Option Instr :=
  match natArg group, natArg chan with
  | some g, some c => gbArgs make g c
  | _, _ => none

/-- An `FC` command of a character and two integers (R83). -/
def fcSource (make : Byte → Byte → Byte → Instr) (family : Char) (group dev : Int) : Option Instr :=
  match natArg group, natArg dev with
  | some g, some d => fcArgs make (charByte family) g d
  | _, _ => none

/-- The one command a source operation expands to, none where an argument does not fit its field (R83). -/
def SourceOp.expand : SourceOp → Option Instr
  | .switchGroup on g c => gbSource (if on then .swonB else .swoffB) g c
  | .switchDip on d c => adSource (if on then .swonA else .swoffA) d c
  | .switchBinary on d c => adSource (if on then .swonD else .swoffD) d c
  | .switchFamily on f g d => fcSource (if on then .swonC else .swoffC) f g d
  | .setProtocol n => (natArg n).bind fun v => (byteArg v).map .setProfile
  | .setProfile n => (natArg n).bind fun v => (byteArg v).map .setProfile
  | .setPulseLength us => (natArg us).bind fun v => (halfArg v).map .setPulseLen
  | .setRepeatCount n => (natArg n).bind fun v => (halfArg v).map .setRepeat
  | .enableTransmit l => (natArg l).bind fun v => (byteArg v).map .enableTx
  | .disableTransmit => some .disableTx
  | .sendTriState w => ((allPresent (w.map charByte)).bind wordArg).map .sendTristate
  | .encodeTypeA d c on => adSource (if on then .enconA else .encoffA) d c
  | .encodeTypeB g c on => gbSource (if on then .enconB else .encoffB) g c
  | .encodeTypeC f g d on => fcSource (if on then .enconC else .encoffC) f g d
  | .encodeTypeD d c on => adSource (if on then .enconD else .encoffD) d c

end Sys2Proof.Machine
end

