-- ==== Sys2Proof/Machine/System.lean ====
section
/-! DEFINITION. Several units of RRTX beside one another (00_scope.md R10; 60_exceptions.md R263, R264), and
the level of the physical lines they drive (R261, R262). -/

namespace Sys2Proof.Machine

open Sys2Proof

/-- The units of a system: unit `k` is entry `k`. Each owns its registers, its parameters, its clock and its
command port; nothing is shared (R10, R263). -/
structure System where
  units : List State
deriving DecidableEq, Repr

/-- One clock edge of unit `k`. Units have their own clocks (R10), so an edge belongs to one unit. For a number
that no unit has, nothing happens (log entry 7). -/
def System.stepUnit (k : Nat) (sys : System) : Host.Outcome System Fault Refusal :=
  match sys.units[k]? with
  | none => .next sys
  | some s =>
    match step s with
    | .next t => .next { sys with units := sys.units.set k t }
    | .fault r => .fault r
    | .refused r => .refused r

/-- How a platform maps the `LINE_SEL` of unit `k` to a physical line. This is outside RRTX (R261): it is an
argument of everything below, and a claim is about every map (log entry 8). -/
abbrev LineMap := Nat → Byte → Nat

/-- Unit `k`, with registers `s`, drives the physical line: it is bound and its `LINE_SEL` selects it (R30,
R261). -/
def drives (lineOf : LineMap) (line k : Nat) (s : State) : Bool := s.bound && lineOf k s.lineId == line

/-- The levels that the units from number `k` on drive onto a physical line. -/
def drivenLevels (lineOf : LineMap) (line : Nat) (k : Nat) : List State → List Bool
  | [] => []
  | s :: rest =>
    if drives lineOf line k s then s.lineOut :: drivenLevels lineOf line (k + 1) rest
    else drivenLevels lineOf line (k + 1) rest

/-- The level of a physical line in this cycle: none where no unit drives it (what does then is outside RRTX,
R261); the driving unit's `LINE_OUT` under the collaborator's duties of R262 (log entry 8); and a fault where
two units drive it, since the spec gives such a line no waveform (R264). -/
def System.wire (sys : System) (lineOf : LineMap) (line : Nat) : Host.Outcome (Option Bool) Fault Refusal :=
  match drivenLevels lineOf line 0 sys.units with
  | [] => .next none
  | [level] => .next (some level)
  | _ :: _ :: _ => .fault .lineShared

end Sys2Proof.Machine
end

