-- ==== Sys2Proof/Safety.lean ====
section
/-! DEFINITION. The terms in which claims about RRTX are stated: the invariants of 10_state.md R39 and of a
running transmission (43_transmit.md R203 to R207), the line levels still to come, what a command encodes and
sends, and the result code the checks of 60_exceptions.md R255 give. -/

namespace Sys2Proof.Machine

open Sys2Proof

/-- The invariant of R39, with the parameter law of R6 (`F_CLK ≥ 1`) and the segment law of R29 (`units ≥ 1`)
that it rests on. -/
structure State.Inv (s : State) : Prop where
  clock : 1 ≤ s.params.fClk
  profileLegal : s.profile.code = 1#2 ∨ s.profile.code = 2#2
  pulseLegal : 1 ≤ s.pulseLen.toNat ∧ s.pulseLen.toNat ≤ 65535
  resultLegal : s.lastResult.code.toNat ≤ 6
  wordInvalid : s.lastValid = false → s.lastWord = 0xFFFFFF#24
  wordValid : s.lastValid = true →
    ∀ i, i < 12 → symField s.lastWord i = 0#2 ∨ symField s.lastWord i = 1#2 ∨ symField s.lastWord i = 2#2
  idleClear : s.busy = false → s.txSegs = [] ∧ s.txTicks = 0 ∧ s.lineOut = false
  busyBound : s.busy = true → s.bound = true ∧ 1 ≤ s.txTicks ∧ 1 ≤ s.txUnit
  segsLegal : ∀ g ∈ s.txSegs, 1 ≤ g.units

/-- The unit is in the middle of sending the word `w`: what it emits now and next is the rest of the waveform
of `w` under the profile, repeat count and unit length it is configured with (R152, R203, R300). -/
def State.sending (s : State) (w : List TriSym) : Prop :=
  w.length = 12 ∧ s.txUnit = unitCyc s.params s.pulseLen ∧
  ∃ sent now, waveform w s.profile s.repeatCnt.toNat = sent ++ now :: s.txSegs ∧
    now.level = s.lineOut ∧ 1 ≤ s.txTicks ∧ s.txTicks ≤ now.units * s.txUnit

/-- While busy, the unit is in the middle of sending some 12-symbol word. -/
def State.TxInv (s : State) : Prop := s.busy = true → ∃ w, s.sending w

/-- The line levels of a segment list, one per cycle, at `unit` cycles per elementary unit (R153). -/
def segLevels (unit : Nat) : List Segment → List Bool
  | [] => []
  | g :: rest => List.replicate (g.units * unit) g.level ++ segLevels unit rest

/-- The levels the line carries from this cycle to the end of the running transmission, one per cycle. -/
def State.levelsToCome (s : State) : List Bool :=
  if s.busy then List.replicate s.txTicks s.lineOut ++ segLevels s.txUnit s.txSegs else []

/-- The elementary units of a segment list. -/
def totalUnits : List Segment → Nat
  | [] => 0
  | g :: rest => g.units + totalUnits rest

/-- The cycle, counted from the first of a transmission, in which its segment `k` begins (R153, R207). -/
def segStart (unit : Nat) (segs : List Segment) (k : Nat) : Nat := totalUnits (segs.take k) * unit

/-- The units of one pass under each profile (R209). -/
def unitsPerPass : Profile → Nat
  | .p1 => 128
  | .p2 => 83

/-- `rst` is low in the next `n` cycles. -/
def State.resetFree (s : State) (n : Nat) : Prop :=
  ∀ k, k < n → (s.inputs.getD k PortIn.idle).rst = false

/-- The word of a valid result. -/
def EncResult.word? : EncResult → Option (List TriSym)
  | .valid w => some w
  | .invalid => none

/-- The encoder result that a command latches, none for a command that uses no encoder (R26). -/
def encoderResult (p : Params) : Instr → Option EncResult
  | .setProfile _ => none
  | .setPulseLen _ => none
  | .setRepeat _ => none
  | .enableTx _ => none
  | .disableTx => none
  | .sendTristate _ => none
  | .swonA dip chan => some (encA p dip chan true)
  | .swoffA dip chan => some (encA p dip chan false)
  | .swonB group chan => some (encB group chan true)
  | .swoffB group chan => some (encB group chan false)
  | .swonC family group dev => some (encC p family group dev true)
  | .swoffC family group dev => some (encC p family group dev false)
  | .swonD dip chan => some (encD p dip chan true)
  | .swoffD dip chan => some (encD p dip chan false)
  | .enconA dip chan => some (encA p dip chan true)
  | .encoffA dip chan => some (encA p dip chan false)
  | .enconB group chan => some (encB group chan true)
  | .encoffB group chan => some (encB group chan false)
  | .enconC family group dev => some (encC p family group dev true)
  | .encoffC family group dev => some (encC p family group dev false)
  | .enconD dip chan => some (encD p dip chan true)
  | .encoffD dip chan => some (encD p dip chan false)

/-- The well-formed word that a command hands to the serializer, none where it sends nothing whatever the
binding (R204). -/
def sentWord (p : Params) : Instr → Option (List TriSym)
  | .setProfile _ => none
  | .setPulseLen _ => none
  | .setRepeat _ => none
  | .enableTx _ => none
  | .disableTx => none
  | .sendTristate word => unpack word
  | .swonA dip chan => (encA p dip chan true).word?
  | .swoffA dip chan => (encA p dip chan false).word?
  | .swonB group chan => (encB group chan true).word?
  | .swoffB group chan => (encB group chan false).word?
  | .swonC family group dev => (encC p family group dev true).word?
  | .swoffC family group dev => (encC p family group dev false).word?
  | .swonD dip chan => (encD p dip chan true).word?
  | .swoffD dip chan => (encD p dip chan false).word?
  | .enconA _ _ => none
  | .encoffA _ _ => none
  | .enconB _ _ => none
  | .encoffB _ _ => none
  | .enconC _ _ _ => none
  | .encoffC _ _ _ => none
  | .enconD _ _ => none
  | .encoffD _ _ => none

/-- The command's own argument check (step 2 of R255): the code where it fails. -/
def argumentCheck : Instr → Option ResultCode
  | .setProfile n => if n = 1#8 ∨ n = 2#8 then none else some .badProfile
  | .setPulseLen us => if us = 0#16 then some .badPulseLen else none
  | .sendTristate word => if (List.range 12).any (fun i => symField word i == 3#2) then some .badSymbol else none
  | _ => none

/-- The encoder check (step 3 of R255). -/
def encoderCheck (p : Params) (i : Instr) : Option ResultCode :=
  if encoderResult p i = some .invalid then some .invalidAddress else none

/-- The collaborator's answer to an `ENABLE_TX` (step 4 of R255). -/
def lineCheck (openOk : Bool) : Instr → Option ResultCode
  | .enableTx _ => if openOk then none else some .lineFault
  | _ => none

/-- The result code of an accepted word by the ordered checks of R255: the first check that fails gives it,
`OK` where none does. -/
def orderedResult (s : State) (w : CmdWord) : ResultCode :=
  match decode w with
  | .error _ => .illegalCmd
  | .ok i =>
    match argumentCheck i with
    | some c => c
    | none =>
      match encoderCheck s.params i with
      | some c => c
      | none => (lineCheck s.pins.openOk i).getD .ok

/-- The command accepted at this edge, none where no command is or the accepted word is illegal (R70, R78). -/
def State.acceptedInstr (s : State) : Option Instr :=
  if s.accepts then
    match decode s.pins.cmdData with
    | .ok i => some i
    | .error _ => none
  else none

/-- `k` clock edges. -/
def runEdges : Nat → State → Result
  | 0, s => .next s
  | k + 1, s =>
    match step s with
    | .next t => runEdges k t
    | .fault r => .fault r
    | .refused r => .refused r

/-- What a `SW*` command does beside the `ENC*` command of the same operands and intent, whose encoder result
is `r`: the same where the address is invalid, the unit unbound or `REPEAT = 0`; else it also starts the
waveform of the word (R204, R205, R211 to R218). -/
def latchesThenSends (sw enc : Instr) (r : EncResult) (s : State) : Prop :=
  ∃ u, exec enc s = .next u ∧
    (r = .invalid ∨ s.bound = false ∨ s.repeatCnt = 0#16 → exec sw s = .next u) ∧
    (∀ w, r = .valid w → s.bound = true → s.repeatCnt ≠ 0#16 →
      ∃ h rest, waveform w s.profile s.repeatCnt.toNat = ⟨true, h⟩ :: rest ∧
        exec sw s = .next { u with
          txUnit := unitCyc s.params s.pulseLen
          lineOut := true
          txTicks := h * unitCyc s.params s.pulseLen
          txSegs := rest
          busy := true })

/-- The registers other than `LINE_OUT`, `TX_SEGS`, `TX_TICKS`, `TX_UNIT`, `BUSY` are the same, and so are the
parameters: what a serializer step and the start of a transmission leave alone (R205, R206). -/
def sameCommandRegisters (s t : State) : Prop :=
  t.bound = s.bound ∧ t.lineId = s.lineId ∧ t.profile = s.profile ∧ t.pulseLen = s.pulseLen ∧
  t.repeatCnt = s.repeatCnt ∧ t.lastWord = s.lastWord ∧ t.lastValid = s.lastValid ∧
  t.lastResult = s.lastResult ∧ t.params = s.params

/-- An integer argument fits an unsigned field of `n` bits (R75, R83). -/
def fitsField (n : Nat) (v : Int) : Prop := 0 ≤ v ∧ v < 2 ^ n

/-- A text of five characters with 8-bit code points: one that fits the DIP field (R76, R83; log entry 10). -/
def fitsDip (d : List Char) : Prop := d.length = 5 ∧ ∀ c ∈ d, c.toNat < 256

/-- The codes of the characters of a text (R74). -/
def charCodes (d : List Char) : List Byte := d.map fun c => BitVec.ofNat 8 c.toNat

/-- The word with an opcode and the fields of format AD at the bits R76 lists: `dip0` in 15:8, `dip1` in 23:16,
`dip2` in 31:24, `dip3` in 39:32, `dip4` in 47:40, `chan` in 55:48. -/
def adWord (opcode : Nat) (d0 d1 d2 d3 d4 chan : Byte) : CmdWord :=
  BitVec.ofNat 64 (opcode + d0.toNat * 2 ^ 8 + d1.toNat * 2 ^ 16 + d2.toNat * 2 ^ 24 + d3.toNat * 2 ^ 32
    + d4.toNat * 2 ^ 40 + chan.toNat * 2 ^ 48)

/-- The word with an opcode and the fields of format GB at the bits R76 lists: `group` in 15:8, `chan` in 23:16. -/
def gbWord (opcode : Nat) (group chan : Byte) : CmdWord :=
  BitVec.ofNat 64 (opcode + group.toNat * 2 ^ 8 + chan.toNat * 2 ^ 16)

/-- The word with an opcode and the fields of format FC at the bits R76 lists: `family` in 15:8, `group` in 23:16,
`device` in 31:24. -/
def fcWord (opcode : Nat) (family group dev : Byte) : CmdWord :=
  BitVec.ofNat 64 (opcode + family.toNat * 2 ^ 8 + group.toNat * 2 ^ 16 + dev.toNat * 2 ^ 24)

/-- The character that writes a symbol field of a word operand, `X` for the reserved code (R82). -/
def fieldChar (f : BitVec 2) : Char :=
  match f.toNat with
  | 0 => '0'
  | 1 => '1'
  | 2 => 'F'
  | _ => 'X'

/-- Neighbouring segments of the list have different levels. -/
def alternates : List Segment → Bool
  | [] => true
  | [_] => true
  | a :: b :: rest => (a.level != b.level) && alternates (b :: rest)

/-- The number of neighbouring cycles (or segments) whose levels differ. -/
def levelChanges : List Bool → Nat
  | [] => 0
  | [_] => 0
  | a :: b :: rest => (if a = b then 0 else 1) + levelChanges (b :: rest)

end Sys2Proof.Machine
end

