-- ==== Sys2Proof/Certificates/Slice0/Obligations.lean ====
section
/-! DEFINITION. The statements about RRTX, from the numbered rules of spec/. -/

open Sys2Proof Sys2Proof.Machine

/-! ## Reset, the step, and the invariants -/

/-- R290, R293: a reset edge gives every register its reset value, whatever the state and the other inputs, takes
no command, and leaves the parameters alone; the ports then read as the rule says. -/
def Obligations.ResetEdgeRestoresEveryRegister : Prop :=
  ∀ s : State, s.pins.rst = true →
    s.accepts = false ∧
    ∃ t, step s = .next t ∧
      t.bound = false ∧ t.lineId = 0#8 ∧ t.profile.code = 1#2 ∧ t.pulseLen = 350#16 ∧ t.repeatCnt = 10#16 ∧
      t.lastWord = 0xFFFFFF#24 ∧ t.lastValid = false ∧ t.lastResult.code = 0#3 ∧ t.busy = false ∧
      t.lineOut = false ∧ t.txSegs = [] ∧ t.txTicks = 0 ∧ t.txUnit = 0 ∧
      t.params = s.params ∧ t.inputs = s.inputs.tail ∧
      t.ports = { cmdReady := true, lineOut := false, lineOe := false, lineSel := 0#8,
                  status := 0x00000004#32, cfgPulseLen := 350#16, cfgRepeat := 10#16,
                  lastWord := 0xFFFFFF#24 }

/-- R20: the registers and ports of the machine the host starts from. -/
def Obligations.ResetStateHasTheSpecValues : Prop :=
  State.reset.bound = false ∧ State.reset.lineId = 0#8 ∧ State.reset.profile.code = 1#2 ∧
  State.reset.pulseLen = 350#16 ∧ State.reset.repeatCnt = 10#16 ∧ State.reset.lastWord = 0xFFFFFF#24 ∧
  State.reset.lastValid = false ∧ State.reset.lastResult.code = 0#3 ∧ State.reset.busy = false ∧
  State.reset.lineOut = false ∧ State.reset.txSegs = [] ∧ State.reset.txTicks = 0 ∧ State.reset.txUnit = 0 ∧
  State.reset.status = 0x00000004#32

/-- The invariants hold right after reset, for every parameter the spec allows (R6: `F_CLK ≥ 1`) and whatever the
outside drives next. -/
def Obligations.InvariantsHoldAtReset : Prop :=
  ∀ (p : Params) (xs : List PortIn), 1 ≤ p.fClk →
    State.Inv { State.reset with params := p, inputs := xs } ∧
    State.TxInv { State.reset with params := p, inputs := xs }

/-- R39: every edge keeps the invariant, from every state that meets it. -/
def Obligations.EveryEdgeKeepsTheRegisterInvariant : Prop :=
  ∀ s t : State, s.Inv → step s = .next t → t.Inv

/-- R152, R203, R206, R300: every edge keeps the transmission invariant. And without reset an edge keeps the
transmission itself: the unit goes on sending the same word, or `BUSY` falls in the last cycle of the last segment. -/
def Obligations.EveryEdgeKeepsTheTransmission : Prop :=
  (∀ s t : State, s.Inv → s.TxInv → step s = .next t → t.TxInv) ∧
  (∀ (s t : State) (w : List TriSym), s.Inv → s.sending w → s.busy = true → s.pins.rst = false →
    step s = .next t →
    (t.busy = true → t.sending w) ∧ (t.busy = false → s.txSegs = [] ∧ s.txTicks = 1))

/-- R39: every reachable state meets the invariant: for every parameter, every schedule of inputs and every number
of edges after reset, the machine has a next state, and it meets R39. -/
def Obligations.ReachableStatesMeetRule39 : Prop :=
  ∀ (p : Params) (xs : List PortIn) (n : Nat), 1 ≤ p.fClk →
    ∃ t, runEdges n { State.reset with params := p, inputs := xs } = .next t ∧
      (t.profile.code = 1#2 ∨ t.profile.code = 2#2) ∧
      (1 ≤ t.pulseLen.toNat ∧ t.pulseLen.toNat ≤ 65535) ∧
      t.lastResult.code.toNat ≤ 6 ∧
      (t.lastValid = false → t.lastWord = 0xFFFFFF#24) ∧
      (t.lastValid = true → ∀ i, i < 12 →
        symField t.lastWord i = 0#2 ∨ symField t.lastWord i = 1#2 ∨ symField t.lastWord i = 2#2) ∧
      (t.busy = false → t.txSegs = [] ∧ t.txTicks = 0 ∧ t.lineOut = false) ∧
      (t.busy = true → t.bound = true ∧ 1 ≤ t.txTicks ∧ 1 ≤ t.txUnit)

/-- R251, R259: nothing traps. Every command completes in a next state, from every state, and so does every
edge. -/
def Obligations.NothingFaultsOrIsRefused : Prop :=
  (∀ (i : Instr) (s : State), ∃ t, exec i s = .next t) ∧ (∀ s : State, ∃ t, step s = .next t)

/-- R15, R70, R256: an accepted word that decodes to a command is run: the edge makes exactly the command's effect,
and the ports carry the next cycle's inputs. -/
def Obligations.EdgeRunsTheAcceptedCommand : Prop :=
  ∀ (s t : State) (i : Instr), s.pins.cmdValid = true → s.busy = false → s.pins.rst = false →
    decode s.pins.cmdData = .ok i → exec i s = .next t →
    step s = .next { t with inputs := s.inputs.tail }

/-- The word that `withFetchWord` places is offered, accepted and run by the very next edge, in every state. How a
word is placed is the model's choice (log entry 2). -/
def Obligations.PlacedWordIsRunByTheNextEdge : Prop :=
  ∀ (s : State) (nbits w : Nat) (i : Instr), decode (BitVec.ofNat 64 (w % 2 ^ nbits)) = .ok i →
    ∃ t, exec i (s.withFetchWord nbits w) = .next t ∧
      step (s.withFetchWord nbits w) = .next { t with inputs := s.inputs.tail }

/-- R256: at one edge reset wins over everything, and next a serializer step excludes any command: what is offered
makes no difference. -/
def Obligations.ResetWinsThenTheSerializer : Prop :=
  ∀ (s : State) (x y : PortIn) (rest : List PortIn),
    (x.rst = true → y.rst = true →
      step { s with inputs := x :: rest } = step { s with inputs := y :: rest } ∧
      step { s with inputs := x :: rest } = .next { State.reset with params := s.params, inputs := rest }) ∧
    (s.busy = true → x.rst = false → y.rst = false →
      State.accepts { s with inputs := x :: rest } = false ∧
      State.acceptedInstr { s with inputs := x :: rest } = none ∧
      step { s with inputs := x :: rest } = step { s with inputs := y :: rest })

/-- R220: no transmission can be cancelled or changed once started: whatever is offered during it (`DISABLE_TX` and
the setters too), an edge without reset leaves the unit still in that transmission or at its end, with every
register that a command writes unchanged; reset is the only exception. -/
def Obligations.NoCommandDisturbsATransmission : Prop :=
  ∀ s t : State, s.busy = true → s.pins.rst = false → step s = .next t →
    s.accepts = false ∧ s.ports.cmdReady = false ∧ sameCommandRegisters s t ∧ t.txUnit = s.txUnit ∧
    (s.Inv → t.levelsToCome = s.levelsToCome.tail)

/-- R206: the serializer step, and the edge at which nothing happens. -/
def Obligations.SerializerStepRule : Prop :=
  ∀ s : State, s.pins.rst = false →
    (s.busy = true → 1 < s.txTicks →
      step s = .next { s with txTicks := s.txTicks - 1, inputs := s.inputs.tail }) ∧
    (∀ l u rest, s.busy = true → s.txTicks ≤ 1 → s.txSegs = ⟨l, u⟩ :: rest →
      step s = .next { s with lineOut := l, txTicks := u * s.txUnit, txSegs := rest, inputs := s.inputs.tail }) ∧
    (s.busy = true → s.txTicks ≤ 1 → s.txSegs = [] →
      step s = .next { s with lineOut := false, txTicks := 0, busy := false, inputs := s.inputs.tail }) ∧
    (s.busy = true → s.accepts = false) ∧
    (s.busy = false → s.accepts = false → step s = .next { s with inputs := s.inputs.tail })

/-! ## Decoding and encoding -/

/-- R78: `Decode` is the opcode table: the row whose opcode is `w[7:0]` with every reserved bit 0, in both of the
rule's forms; unique, and total. -/
def Obligations.DecodeIsTheOpcodeTable : Prop :=
  (∀ (w : CmdWord) (op : Opcode), decode w = .ok (op.withOperands w) ↔
    (field8 w 0 = op.byte ∧ ∀ b, op.format.usedBits ≤ b → b < 64 → w.getLsbD b = false)) ∧
  (∀ (w : CmdWord) (i : Instr), decode w = .ok i →
    i = i.opcode.withOperands w ∧ ∃ r ∈ opcodeTable, r.covers w ∧ r.op = i.opcode) ∧
  (∀ (w : CmdWord), ∀ r ∈ opcodeTable, r.covers w → decode w = .ok (r.op.withOperands w)) ∧
  (∀ (w : CmdWord), ∀ r ∈ opcodeTable, ∀ r' ∈ opcodeTable, r.covers w → r'.covers w → r = r') ∧
  (∀ w : CmdWord, (∃ e, decode w = .error e) ↔ ∀ r ∈ opcodeTable, ¬ r.covers w)

/-- R76: no bit of an encoding is dropped: every well-formed command, with every operand at every value, decodes
from its own word. -/
def Obligations.DecodeOfEncodeIsTheCommand : Prop :=
  ∀ i : Instr, i.wf = true → decode (encode i) = .ok i

/-- R76, R78: a word has one meaning and a command one word: a decoded command is well-formed and encodes to the
word it came from. -/
def Obligations.EncodeOfDecodeIsTheWord : Prop :=
  ∀ (w : CmdWord) (i : Instr), decode w = .ok i → i.wf = true ∧ encode i = w

/-- R84: the encoding examples: text to command, command to word, word to command. -/
def Obligations.EncodingExamplesOfRule84 : Prop :=
  ∀ e ∈ ([("SWON_B 2, 3", 0x0000000000030213#64),
          ("SWON_A \"10000\", 1", 0x0001303030303111#64),
          ("SWON_C 'a', 1, 1", 0x0000000001016115#64),
          ("SET_PROFILE 2", 0x0000000000000201#64),
          ("SET_PULSE_LEN 350", 0x0000000000015E02#64),
          ("SET_REPEAT 10", 0x0000000000000A03#64),
          ("ENABLE_TX 17", 0x0000000000001104#64),
          ("DISABLE_TX", 0x0000000000000005#64),
          ("SEND_TRISTATE \"F0FFFF0FFFFF\"", 0x00000000AA8AA206#64)] : List (String × CmdWord)),
    ∃ i, assembleLine e.1.toList = some i ∧ encode i = e.2 ∧ decode e.2 = .ok i

/-- R79: an accepted illegal word writes `ILLEGAL_CMD` and changes nothing else; a word is illegal for an unassigned
opcode or a nonzero reserved bit under an assigned one. -/
def Obligations.IllegalWordsOnlyWriteTheResult : Prop :=
  (∀ (s : State) (e : DecodeError), s.accepts = true → decode s.pins.cmdData = .error e →
    step s = .next { s with lastResult := .illegalCmd, inputs := s.inputs.tail }) ∧
  (∀ w : CmdWord, (∃ e, decode w = .error e) ↔
    (((w.toNat % 256 = 0 ∨ (0x07 ≤ w.toNat % 256 ∧ w.toNat % 256 ≤ 0x0F) ∨
       (0x18 ≤ w.toNat % 256 ∧ w.toNat % 256 ≤ 0x1F) ∨ 0x28 ≤ w.toNat % 256)) ∨
     ∃ op : Opcode, w.toNat % 256 = op.byte.toNat ∧ ∃ b, op.format.usedBits ≤ b ∧ b < 64 ∧ w.getLsbD b = true))

/-! ## Symbols and code words -/

/-- R72: the symbol codes, and a code word as `Σ code(s[i]) × 4^i` with symbol `i` in bits `[2i+1:2i]`. -/
def Obligations.CodeWordsArePackedTwoBitsASymbol : Prop :=
  (symOfCode 0#2 = some .s0 ∧ symOfCode 1#2 = some .s1 ∧ symOfCode 2#2 = some .sF ∧ symOfCode 3#2 = none) ∧
  (∀ a, symOfCode (BitVec.ofNat 2 (symCode a)) = some a) ∧
  (∀ w : List TriSym, w.length = 12 →
    (pack w).toNat = ((List.range 12).map fun i => symCode (w.getD i .s0) * 4 ^ i).sum ∧
    ∀ i, i < 12 → (symField (pack w) i).toNat = symCode (w.getD i .s0)) ∧
  pack [.sF, .s0, .sF, .sF, .sF, .sF, .s0, .sF, .sF, .sF, .sF, .sF] = 0xAA8AA2#24

/-- R73: a field is well-formed when no symbol field is `0b11`; decoding it gives the string of its codes. -/
def Obligations.WellFormedFieldsAreTheCodeWords : Prop :=
  (∀ f : CodeField, wellFormedField f = true ↔ ∀ i, i < 12 → symField f i ≠ 3#2) ∧
  (∀ f : CodeField, wellFormedField f = true → ∃ w, unpack f = some w ∧ w.length = 12 ∧
    ∀ i, i < 12 → symCode (w.getD i .s0) = (symField f i).toNat) ∧
  (∀ f : CodeField, wellFormedField f = false → unpack f = none) ∧
  (∀ w : List TriSym, w.length = 12 → unpack (pack w) = some w)

/-- R85: the invalid pattern holds the reserved code in every field, is no well-formed word, equals no valid encoder
output, and stands in `LAST_WORD` after an invalid result and after reset. -/
def Obligations.InvalidPatternIsNoCodeWord : Prop :=
  (∀ i, i < 12 → symField 0xFFFFFF#24 i = 3#2) ∧ wellFormedField 0xFFFFFF#24 = false ∧
  (∀ (p : Params) (i : Instr) (w : List TriSym), encoderResult p i = some (.valid w) → pack w ≠ 0xFFFFFF#24) ∧
  (∀ (i : Instr) (s : State), encoderResult s.params i = some .invalid →
    ∃ t, exec i s = .next t ∧ t.lastWord = 0xFFFFFF#24) ∧
  (∀ s : State, s.pins.rst = true → ∃ t, step s = .next t ∧ t.lastWord = 0xFFFFFF#24)

/-! ## The encoder -/

/-- R101: `Bin(v, n)` is `n` digits, most significant first, and the encoders call it only with values that fit. -/
def Obligations.BinRendersMostSignificantFirst : Prop :=
  (∀ v n, (bin v n).length = n ∧
    ∀ j, j < n → (bin v n).getD j 0 = ((v % 2 ^ n) >>> (n - 1 - j)) &&& 1) ∧
  bin 17 5 = [1, 0, 0, 0, 1] ∧ bin 0 4 = [0, 0, 0, 0] ∧ bin 15 4 = [1, 1, 1, 1] ∧ bin 37 5 = [0, 0, 1, 0, 1] ∧
  (∀ group dev : Byte, inRange group 1 4 → inRange dev 1 4 →
    (dev.toNat - 1) + (group.toNat - 1) * 4 < 2 ^ 4) ∧
  (∀ chan : Byte, inRange chan 1 31 → chan.toNat < 2 ^ 5)

/-- R102: the DIP transform, under both settings of `DIP_ACCEPT_F`; lowercase `'f'` is invalid under both. -/
def Obligations.DipTransformRule : Prop :=
  ∀ (acceptF : Bool) (d : List Byte), d.length = 5 →
    (∀ t : List TriSym, dipTransform acceptF d = some t ↔
      t.length = 5 ∧ ∀ i, i < 5 →
        (d.getD i 0#8 = 0x30#8 ∧ t.getD i .s1 = .sF) ∨ (d.getD i 0#8 = 0x31#8 ∧ t.getD i .s1 = .s0) ∨
        (d.getD i 0#8 = 0x46#8 ∧ acceptF = true ∧ t.getD i .s1 = .sF)) ∧
    (dipTransform acceptF d = none ↔ ∃ i, i < 5 ∧ d.getD i 0#8 ≠ 0x30#8 ∧ d.getD i 0#8 ≠ 0x31#8 ∧
      (d.getD i 0#8 = 0x46#8 → acceptF = false)) ∧
    ((∃ i, i < 5 ∧ d.getD i 0#8 = 0x66#8) → dipTransform acceptF d = none)

/-- R103: `Enc_B`, by its tables and symbol by symbol. -/
def Obligations.TypeBEncoderRule : Prop :=
  ∀ (group chan : Byte) (on : Bool),
    (1 ≤ group.toNat → group.toNat ≤ 4 → 1 ≤ chan.toNat → chan.toNat ≤ 4 →
      ∃ w, encB group chan on = .valid w ∧
        w = nibble group.toNat ++ nibble chan.toNat ++ [.sF, .sF, .sF] ++ [if on then .sF else .s0] ∧
        w.length = 12 ∧
        ∀ j, j < 12 → w.getD j .s1 =
          if j + 1 = group.toNat ∨ j = chan.toNat + 3 ∨ (j = 11 ∧ on = false) then .s0 else .sF) ∧
    (group.toNat < 1 ∨ 4 < group.toNat ∨ chan.toNat < 1 ∨ 4 < chan.toNat → encB group chan on = .invalid)

/-- R104: `Enc_A`, by its tables and symbol by symbol. -/
def Obligations.TypeAEncoderRule : Prop :=
  ∀ (p : Params) (d : List Byte) (chan : Byte) (on : Bool),
    (∀ t, dipTransform p.dipAcceptF d = some t → 1 ≤ chan.toNat → chan.toNat ≤ 5 →
      ∃ w, encA p d chan on = .valid w ∧
        w = t ++ position chan.toNat ++ (if on then [.s0, .sF] else [.sF, .s0]) ∧ w.length = 12 ∧
        ∀ j, j < 5 → w.getD (5 + j) .s1 = if j + 1 = chan.toNat then .s0 else .sF) ∧
    (dipTransform p.dipAcceptF d = none ∨ chan.toNat < 1 ∨ 5 < chan.toNat → encA p d chan on = .invalid)

/-- R105: `Enc_D`: the channel's five binary digits, most significant first, a 1 as `0` and a 0 as `F`. -/
def Obligations.TypeDEncoderRule : Prop :=
  ∀ (p : Params) (d : List Byte) (chan : Byte) (on : Bool),
    (∀ t, dipTransform p.dipAcceptF d = some t → 1 ≤ chan.toNat → chan.toNat ≤ 31 →
      ∃ c w, encD p d chan on = .valid w ∧
        w = t ++ c ++ (if on then [.s0, .sF] else [.sF, .s0]) ∧ c.length = 5 ∧ w.length = 12 ∧
        ∀ j, j < 5 → c.getD j .s1 = if chan.toNat.testBit (4 - j) then .s0 else .sF) ∧
    (dipTransform p.dipAcceptF d = none ∨ chan.toNat < 1 ∨ 31 < chan.toNat → encD p d chan on = .invalid)

/-- R106: `Enc_C`: the family entry, the index's four binary digits, most significant first, a 1 as `F` and a 0 as
`0`, then `"0FF"` and the status. -/
def Obligations.TypeCEncoderRule : Prop :=
  ∀ (p : Params) (fam group dev : Byte) (on : Bool),
    (0x61 ≤ fam.toNat → fam.toNat ≤ 0x70 → 1 ≤ group.toNat → group.toNat ≤ 4 → 1 ≤ dev.toNat → dev.toNat ≤ 4 →
      ∃ f g w, encC p fam group dev on = .valid w ∧
        w = f ++ g ++ [.s0, .sF, .sF] ++ [if on then .sF else .s0] ∧
        f.length = 4 ∧ g.length = 4 ∧ w.length = 12 ∧
        (fam.toNat = 0x61 → f = [.s0, .s0, .s0, .s0]) ∧
        (∀ e, 0x61 < fam.toNat → p.familyRest.toList[fam.toNat - 0x62]? = some e → f = [e.a, e.b, e.c, e.d]) ∧
        ∀ j, j < 4 → g.getD j .s1 =
          if ((dev.toNat - 1) + (group.toNat - 1) * 4).testBit (3 - j) then .sF else .s0) ∧
    (fam.toNat < 0x61 ∨ 0x70 < fam.toNat ∨ group.toNat < 1 ∨ 4 < group.toNat ∨ dev.toNat < 1 ∨ 4 < dev.toNat →
      encC p fam group dev on = .invalid)

/-- R107: on and off results of one address differ only in the status segment, and validity does not depend on the
intent. -/
def Obligations.IntentOnlyChangesTheStatusSegment : Prop :=
  ∀ (p : Params) (d : List Byte) (a b c : Byte),
    ((encA p d a true = .invalid ↔ encA p d a false = .invalid) ∧
     ∀ v w, encA p d a true = .valid v → encA p d a false = .valid w → v.take 10 = w.take 10 ∧ v.drop 10 ≠ w.drop 10) ∧
    ((encB a b true = .invalid ↔ encB a b false = .invalid) ∧
     ∀ v w, encB a b true = .valid v → encB a b false = .valid w → v.take 11 = w.take 11 ∧ v.drop 11 ≠ w.drop 11) ∧
    ((encC p a b c true = .invalid ↔ encC p a b c false = .invalid) ∧
     ∀ v w, encC p a b c true = .valid v → encC p a b c false = .valid w →
       v.take 11 = w.take 11 ∧ v.drop 11 ≠ w.drop 11) ∧
    ((encD p d a true = .invalid ↔ encD p d a false = .invalid) ∧
     ∀ v w, encD p d a true = .valid v → encD p d a false = .valid w → v.take 10 = w.take 10 ∧ v.drop 10 ≠ w.drop 10)

/-- R108: every valid result has 12 symbols, cut 5+5+2 (Types A, D) or 4+4+3+1 (Types B, C); the symbol `1` occurs
only in Type C words, and there only if a family entry holds it; the default table holds none. -/
def Obligations.ValidResultsHaveTwelveSymbols : Prop :=
  (∀ (p : Params) (d : List Byte) (a : Byte) (on : Bool) (w : List TriSym),
    encA p d a on = .valid w ∨ encD p d a on = .valid w →
    w.length = 12 ∧ TriSym.s1 ∉ w ∧
    ∃ x y z, w = x ++ y ++ z ∧ x.length = 5 ∧ y.length = 5 ∧ z.length = 2 ∧ dipTransform p.dipAcceptF d = some x) ∧
  (∀ (a b : Byte) (on : Bool) (w : List TriSym), encB a b on = .valid w →
    w.length = 12 ∧ TriSym.s1 ∉ w ∧ (nibble a.toNat).length = 4 ∧ (nibble b.toNat).length = 4 ∧
    w.take 4 = nibble a.toNat ∧ (w.drop 4).take 4 = nibble b.toNat ∧
    ∃ z, w.drop 8 = [.sF, .sF, .sF] ++ z ∧ z.length = 1) ∧
  (∀ (p : Params) (a b c : Byte) (on : Bool) (w : List TriSym), encC p a b c on = .valid w →
    w.length = 12 ∧ w.take 4 = familyCode p (a.toNat - 0x61) ∧ TriSym.s1 ∉ w.drop 4 ∧
    ∃ y z, w.drop 4 = y ++ [.s0, .sF, .sF] ++ z ∧ y.length = 4 ∧ z.length = 1) ∧
  (∀ k, k < 16 → TriSym.s1 ∉ familyCode { fClk := 1, dipAcceptF := false, familyRest := defaultFamilyRest } k)

/-- R38, R100: what an encoding command latches depends on its operands and the parameters alone: two states that
agree on the parameters agree on all three result registers afterwards. -/
def Obligations.EncoderReadsNoRegister : Prop :=
  ∀ (i : Instr) (s s' : State) (r : EncResult), s.params = s'.params → encoderResult s.params i = some r →
    ∃ t t', exec i s = .next t ∧ exec i s' = .next t' ∧
      t.lastWord = t'.lastWord ∧ t.lastValid = t'.lastValid ∧ t.lastResult = t'.lastResult

/-! ## The encode-only commands, end to end -/

/-- R109, R110, R111, R104: `ENCON_A` and `ENCOFF_A` latch the Type A word symbol by symbol, or the invalid pattern,
and change nothing else. -/
def Obligations.EncodeOnlyTypeA : Prop :=
  ∀ (d : List Byte) (chan : Byte) (on : Bool) (s : State), d.length = 5 →
    let i := if on then Instr.enconA d chan else Instr.encoffA d chan
    let charOk := fun j => d.getD j 0#8 = 0x30#8 ∨ d.getD j 0#8 = 0x31#8 ∨
      (d.getD j 0#8 = 0x46#8 ∧ s.params.dipAcceptF = true)
    ((∀ j, j < 5 → charOk j) → 1 ≤ chan.toNat → chan.toNat ≤ 5 →
      ∃ f, exec i s = .next { s with lastWord := f, lastValid := true, lastResult := .ok } ∧
        (∀ j, j < 5 → symField f j = if d.getD j 0#8 = 0x31#8 then 0#2 else 2#2) ∧
        (∀ j, j < 5 → symField f (5 + j) = if j + 1 = chan.toNat then 0#2 else 2#2) ∧
        symField f 10 = (if on then 0#2 else 2#2) ∧ symField f 11 = (if on then 2#2 else 0#2)) ∧
    ((∃ j, j < 5 ∧ ¬ charOk j) ∨ chan.toNat < 1 ∨ 5 < chan.toNat →
      exec i s = .next { s with lastWord := 0xFFFFFF#24, lastValid := false, lastResult := .invalidAddress })

/-- R109, R112, R113, R103: `ENCON_B` and `ENCOFF_B`, end to end. -/
def Obligations.EncodeOnlyTypeB : Prop :=
  ∀ (group chan : Byte) (on : Bool) (s : State),
    let i := if on then Instr.enconB group chan else Instr.encoffB group chan
    (1 ≤ group.toNat → group.toNat ≤ 4 → 1 ≤ chan.toNat → chan.toNat ≤ 4 →
      ∃ f, exec i s = .next { s with lastWord := f, lastValid := true, lastResult := .ok } ∧
        ∀ j, j < 12 → symField f j =
          if j + 1 = group.toNat ∨ j = chan.toNat + 3 ∨ (j = 11 ∧ on = false) then 0#2 else 2#2) ∧
    (group.toNat < 1 ∨ 4 < group.toNat ∨ chan.toNat < 1 ∨ 4 < chan.toNat →
      exec i s = .next { s with lastWord := 0xFFFFFF#24, lastValid := false, lastResult := .invalidAddress })

/-- R109, R114, R115, R106: `ENCON_C` and `ENCOFF_C`, end to end, for every family table. -/
def Obligations.EncodeOnlyTypeC : Prop :=
  ∀ (fam group dev : Byte) (on : Bool) (s : State),
    let i := if on then Instr.enconC fam group dev else Instr.encoffC fam group dev
    (0x61 ≤ fam.toNat → fam.toNat ≤ 0x70 → 1 ≤ group.toNat → group.toNat ≤ 4 → 1 ≤ dev.toNat → dev.toNat ≤ 4 →
      ∃ f, exec i s = .next { s with lastWord := f, lastValid := true, lastResult := .ok } ∧
        (fam.toNat = 0x61 → ∀ j, j < 4 → symField f j = 0#2) ∧
        (∀ e, 0x61 < fam.toNat → s.params.familyRest.toList[fam.toNat - 0x62]? = some e →
          (symField f 0).toNat = symCode e.a ∧ (symField f 1).toNat = symCode e.b ∧
          (symField f 2).toNat = symCode e.c ∧ (symField f 3).toNat = symCode e.d) ∧
        (∀ j, j < 4 → symField f (4 + j) =
          if ((dev.toNat - 1) + (group.toNat - 1) * 4).testBit (3 - j) then 2#2 else 0#2) ∧
        symField f 8 = 0#2 ∧ symField f 9 = 2#2 ∧ symField f 10 = 2#2 ∧
        symField f 11 = (if on then 2#2 else 0#2)) ∧
    (fam.toNat < 0x61 ∨ 0x70 < fam.toNat ∨ group.toNat < 1 ∨ 4 < group.toNat ∨ dev.toNat < 1 ∨ 4 < dev.toNat →
      exec i s = .next { s with lastWord := 0xFFFFFF#24, lastValid := false, lastResult := .invalidAddress })

/-- R109, R116, R117, R105: `ENCON_D` and `ENCOFF_D`, end to end. -/
def Obligations.EncodeOnlyTypeD : Prop :=
  ∀ (d : List Byte) (chan : Byte) (on : Bool) (s : State), d.length = 5 →
    let i := if on then Instr.enconD d chan else Instr.encoffD d chan
    let charOk := fun j => d.getD j 0#8 = 0x30#8 ∨ d.getD j 0#8 = 0x31#8 ∨
      (d.getD j 0#8 = 0x46#8 ∧ s.params.dipAcceptF = true)
    ((∀ j, j < 5 → charOk j) → 1 ≤ chan.toNat → chan.toNat ≤ 31 →
      ∃ f, exec i s = .next { s with lastWord := f, lastValid := true, lastResult := .ok } ∧
        (∀ j, j < 5 → symField f j = if d.getD j 0#8 = 0x31#8 then 0#2 else 2#2) ∧
        (∀ j, j < 5 → symField f (5 + j) = if chan.toNat.testBit (4 - j) then 0#2 else 2#2) ∧
        symField f 10 = (if on then 0#2 else 2#2) ∧ symField f 11 = (if on then 2#2 else 0#2)) ∧
    ((∃ j, j < 5 ∧ ¬ charOk j) ∨ chan.toNat < 1 ∨ 31 < chan.toNat →
      exec i s = .next { s with lastWord := 0xFFFFFF#24, lastValid := false, lastResult := .invalidAddress })

/-! ## The transmitting commands -/

/-- R204, R205, R211 to R218: each `SWON_*` and `SWOFF_*` does what the encode-only command of the same operands and
intent does, and starts the waveform of a valid word while bound with `REPEAT ≠ 0`. -/
def Obligations.SwitchCommandsLatchThenSend : Prop :=
  ∀ (d : List Byte) (a b c : Byte) (s : State),
    latchesThenSends (.swonA d a) (.enconA d a) (encA s.params d a true) s ∧
    latchesThenSends (.swoffA d a) (.encoffA d a) (encA s.params d a false) s ∧
    latchesThenSends (.swonB a b) (.enconB a b) (encB a b true) s ∧
    latchesThenSends (.swoffB a b) (.encoffB a b) (encB a b false) s ∧
    latchesThenSends (.swonC a b c) (.enconC a b c) (encC s.params a b c true) s ∧
    latchesThenSends (.swoffC a b c) (.encoffC a b c) (encC s.params a b c false) s ∧
    latchesThenSends (.swonD d a) (.enconD d a) (encD s.params d a true) s ∧
    latchesThenSends (.swoffD d a) (.encoffD d a) (encD s.params d a false) s

/-- R219: `SEND_TRISTATE`, whole: its word, `BAD_SYMBOL` on any reserved field, else `OK` and the waveform of the
word's symbols while bound with `REPEAT ≠ 0`; `LAST_WORD` and `LAST_VALID` are not written. -/
def Obligations.SendTristateRule : Prop :=
  (∀ f : CodeField, decode (f.setWidth 64 <<< 8 ||| 0x06#64) = .ok (.sendTristate f)) ∧
  (∀ (f : CodeField) (s : State), (∃ i, i < 12 ∧ symField f i = 3#2) →
    exec (.sendTristate f) s = .next { s with lastResult := .badSymbol }) ∧
  (∀ (f : CodeField) (s : State), (∀ i, i < 12 → symField f i ≠ 3#2) →
    ∃ w : List TriSym, w.length = 12 ∧ (∀ i, i < 12 → symCode (w.getD i .s0) = (symField f i).toNat) ∧
      (s.bound = false ∨ s.repeatCnt = 0#16 →
        exec (.sendTristate f) s = .next { s with lastResult := .ok }) ∧
      (s.bound = true → s.repeatCnt ≠ 0#16 →
        ∃ h rest, waveform w s.profile s.repeatCnt.toNat = ⟨true, h⟩ :: rest ∧
          exec (.sendTristate f) s = .next { s with
            lastResult := .ok
            txUnit := unitCyc s.params s.pulseLen
            lineOut := true
            txTicks := h * unitCyc s.params s.pulseLen
            txSegs := rest
            busy := true })) ∧
  passSegs .p2 (List.replicate 12 .s1) =
    (List.replicate 24 [⟨true, 2⟩, ⟨false, 1⟩]).flatten ++ [⟨true, 1⟩, ⟨false, 10⟩]

/-! ## The configuration commands -/

/-- R170: `SET_PROFILE n`, whole. -/
def Obligations.SetProfileRule : Prop :=
  (∀ n : Byte, decode (n.setWidth 64 <<< 8 ||| 0x01#64) = .ok (.setProfile n)) ∧
  (∀ s : State, exec (.setProfile 1#8) s =
    .next { s with profile := .p1, pulseLen := 350#16, lastResult := .ok }) ∧
  (∀ s : State, exec (.setProfile 2#8) s =
    .next { s with profile := .p2, pulseLen := 650#16, lastResult := .ok }) ∧
  (∀ (n : Byte) (s : State), n ≠ 1#8 → n ≠ 2#8 →
    exec (.setProfile n) s = .next { s with lastResult := .badProfile }) ∧
  Profile.p1.code = 1#2 ∧ Profile.p2.code = 2#2

/-- R171: `SET_PULSE_LEN us`, whole; a later `SET_PROFILE` replaces it. -/
def Obligations.SetPulseLenRule : Prop :=
  (∀ us : Half, decode (us.setWidth 64 <<< 8 ||| 0x02#64) = .ok (.setPulseLen us)) ∧
  (∀ s : State, exec (.setPulseLen 0#16) s = .next { s with lastResult := .badPulseLen }) ∧
  (∀ (us : Half) (s : State), us ≠ 0#16 →
    exec (.setPulseLen us) s = .next { s with pulseLen := us, lastResult := .ok }) ∧
  (∀ (us : Half) (s u : State), exec (.setPulseLen us) s = .next u →
    (∃ t, exec (.setProfile 1#8) u = .next t ∧ t.pulseLen = 350#16) ∧
    (∃ t, exec (.setProfile 2#8) u = .next t ∧ t.pulseLen = 650#16))

/-- R172: `SET_REPEAT n`, whole; while `REPEAT` is 0 no command starts a transmission, and one that sends completes
at once with `OK`. -/
def Obligations.SetRepeatRule : Prop :=
  (∀ n : Half, decode (n.setWidth 64 <<< 8 ||| 0x03#64) = .ok (.setRepeat n)) ∧
  (∀ (n : Half) (s : State), exec (.setRepeat n) s = .next { s with repeatCnt := n, lastResult := .ok }) ∧
  (∀ (s : State) (i : Instr), s.repeatCnt = 0#16 → s.busy = false →
    ∃ t, exec i s = .next t ∧ t.busy = false ∧ t.levelsToCome = [] ∧
      (sentWord s.params i ≠ none → t.lastResult = .ok))

/-- R173: `ENABLE_TX line`, whole, under both answers of the collaborator. -/
def Obligations.EnableTxRule : Prop :=
  (∀ line : Byte, decode (line.setWidth 64 <<< 8 ||| 0x04#64) = .ok (.enableTx line)) ∧
  (∀ (line : Byte) (s : State), s.pins.openOk = true →
    exec (.enableTx line) s = .next { s with lineId := line, bound := true, lastResult := .ok }) ∧
  (∀ (line : Byte) (s : State), s.pins.openOk = false →
    exec (.enableTx line) s = .next { s with lineId := line, bound := false, lastResult := .lineFault }) ∧
  (∀ (line : Byte) (s t : State), s.accepts = true → s.pins.cmdData = line.setWidth 64 <<< 8 ||| 0x04#64 →
    step s = .next t →
    t.ports.lineSel = line ∧ t.ports.lineOe = s.pins.openOk ∧ (s.Inv → t.ports.lineOut = false))

/-- R174: `DISABLE_TX`, whole; `LINE_OE` falls in the next cycle, and while unbound no command but `ENABLE_TX` binds,
and none sends a pulse: one that sends ends with `OK`. -/
def Obligations.DisableTxRule : Prop :=
  decode 0x0000000000000005#64 = .ok .disableTx ∧
  (∀ s : State, exec .disableTx s = .next { s with bound := false, lastResult := .ok }) ∧
  (∀ s t : State, s.accepts = true → s.pins.cmdData = 0x0000000000000005#64 → step s = .next t →
    t.ports.lineOe = false ∧ t.ports.lineSel = s.lineId ∧ t.lastResult = .ok) ∧
  (∀ (s : State) (i : Instr), s.bound = false → s.busy = false →
    ∃ t, exec i s = .next t ∧ t.busy = false ∧ t.levelsToCome = [] ∧
      ((∀ line, i ≠ .enableTx line) → t.bound = false) ∧
      (sentWord s.params i ≠ none → t.lastResult = .ok))

/-- R20, R175, R257: each register is written by the commands the register table names, by the serializer, or by
reset, and by nothing else; no edge writes the parameters. -/
def Obligations.RegistersHaveOnlyTheirWriters : Prop :=
  ∀ s t : State, step s = .next t →
    t.params = s.params ∧ t.inputs = s.inputs.tail ∧
    (s.pins.rst = false →
      (t.bound = s.bound ∨ (∃ l, s.acceptedInstr = some (.enableTx l)) ∨ s.acceptedInstr = some .disableTx) ∧
      (t.lineId = s.lineId ∨ ∃ l, s.acceptedInstr = some (.enableTx l)) ∧
      (t.profile = s.profile ∨ ∃ n, s.acceptedInstr = some (.setProfile n) ∧ (n = 1#8 ∨ n = 2#8)) ∧
      (t.pulseLen = s.pulseLen ∨ (∃ n, s.acceptedInstr = some (.setProfile n) ∧ (n = 1#8 ∨ n = 2#8)) ∨
        ∃ us, s.acceptedInstr = some (.setPulseLen us) ∧ us ≠ 0#16) ∧
      (t.repeatCnt = s.repeatCnt ∨ ∃ n, s.acceptedInstr = some (.setRepeat n)) ∧
      ((t.lastWord = s.lastWord ∧ t.lastValid = s.lastValid) ∨
        ∃ i r, s.acceptedInstr = some i ∧ encoderResult s.params i = some r) ∧
      (t.lastResult = s.lastResult ∨ s.accepts = true) ∧
      ((t.busy = s.busy ∧ t.lineOut = s.lineOut ∧ t.txSegs = s.txSegs ∧ t.txTicks = s.txTicks ∧
          t.txUnit = s.txUnit) ∨
        s.busy = true ∨
        ∃ i w, s.acceptedInstr = some i ∧ sentWord s.params i = some w ∧ s.bound = true ∧ s.repeatCnt ≠ 0#16))

/-! ## The waveform -/

/-- R201: the segments of each symbol under each profile. -/
def Obligations.SymbolWaveforms : Prop :=
  symbolSegs .p1 .s0 = [⟨true, 1⟩, ⟨false, 3⟩, ⟨true, 1⟩, ⟨false, 3⟩] ∧
  symbolSegs .p1 .s1 = [⟨true, 3⟩, ⟨false, 1⟩, ⟨true, 3⟩, ⟨false, 1⟩] ∧
  symbolSegs .p1 .sF = [⟨true, 1⟩, ⟨false, 3⟩, ⟨true, 3⟩, ⟨false, 1⟩] ∧
  symbolSegs .p2 .s0 = [⟨true, 1⟩, ⟨false, 2⟩, ⟨true, 1⟩, ⟨false, 2⟩] ∧
  symbolSegs .p2 .s1 = [⟨true, 2⟩, ⟨false, 1⟩, ⟨true, 2⟩, ⟨false, 1⟩] ∧
  symbolSegs .p2 .sF = [⟨true, 1⟩, ⟨false, 2⟩, ⟨true, 2⟩, ⟨false, 1⟩]

/-- R202, R203: a pass is the symbols in order and one sync pulse, 50 segments; a waveform is its passes. -/
def Obligations.WaveformIsPassesOfSymbolsAndSync : Prop :=
  (∀ w : List TriSym, w.length = 12 →
    passSegs .p1 w = (w.map (symbolSegs .p1)).flatten ++ [⟨true, 1⟩, ⟨false, 31⟩] ∧
    passSegs .p2 w = (w.map (symbolSegs .p2)).flatten ++ [⟨true, 1⟩, ⟨false, 10⟩] ∧
    ∀ p, (passSegs p w).length = 50) ∧
  (∀ (w : List TriSym) (p : Profile) (n : Nat), w.length = 12 →
    waveform w p n = (List.replicate n (passSegs p w)).flatten ∧ (waveform w p n).length = 50 * n)

/-- R210: neighbouring segments have different levels, every segment has at least one unit, and a transmission of
`n` passes has `50 × n` edges in all, with the line low before and after. -/
def Obligations.WaveformAlternates : Prop :=
  ∀ (w : List TriSym) (p : Profile) (n : Nat), w.length = 12 → 1 ≤ n →
    alternates (waveform w p n) = true ∧ (∀ g ∈ waveform w p n, 1 ≤ g.units) ∧
    levelChanges ((waveform w p n).map Segment.level) = 50 * n - 1 ∧
    levelChanges (false :: (waveform w p n).map Segment.level) = 50 * n ∧
    levelChanges (false :: (waveform w p n).map Segment.level ++ [false]) = 50 * n

/-- R209: every symbol of a profile has the same length, a pass is 128 or 83 units whatever the word, and a started
transmission keeps the line for `REPEAT × UnitsPerPass × UNIT_CYC` cycles. -/
def Obligations.TransmissionLength : Prop :=
  (∀ a, totalUnits (symbolSegs .p1 a) = 8 ∧ totalUnits (symbolSegs .p2 a) = 6) ∧
  (∀ (w : List TriSym) (p : Profile), w.length = 12 → totalUnits (passSegs p w) = unitsPerPass p) ∧
  (∀ (i : Instr) (s : State) (w : List TriSym), s.busy = false → s.bound = true → s.repeatCnt ≠ 0#16 →
    sentWord s.params i = some w →
    ∃ t, exec i s = .next t ∧ t.busy = true ∧
      t.levelsToCome.length = s.repeatCnt.toNat * unitsPerPass s.profile * unitCyc s.params s.pulseLen) ∧
  10 * unitsPerPass .p1 * 350 = 448000 ∧ 10 * unitsPerPass .p2 * 650 = 539500

/-- R153, R206: while busy, the line carries the head of the levels still to come, and an edge without reset takes
that head away: no gap, no extra tick, no drift. -/
def Obligations.LineFollowsTheLevelsToCome : Prop :=
  ∀ s : State, s.Inv → s.busy = true → s.pins.rst = false →
    ∃ t, step s = .next t ∧ s.levelsToCome = s.lineOut :: t.levelsToCome ∧
      (t.levelsToCome = [] ↔ t.busy = false)

/-- R207: the placement of a transmission in cycles. The command is accepted at edge `t`, the state's own; cycle
`t + 1 + c` is the state after `c + 1` edges. Segment `k` is on the line in exactly its cycles, `BUSY` is 1 for
`D` cycles with no command accepted, and in cycle `t + D + 1` the unit is idle, low, and accepts what is offered. -/
def Obligations.TransmissionPlacementInCycles : Prop :=
  ∀ (s : State) (i : Instr) (w : List TriSym), s.Inv → s.acceptedInstr = some i → sentWord s.params i = some w →
    s.bound = true → s.repeatCnt ≠ 0#16 →
    let segs := waveform w s.profile s.repeatCnt.toNat
    let unit := unitCyc s.params s.pulseLen
    let total := totalUnits segs * unit
    s.resetFree (total + 1) →
    total = s.repeatCnt.toNat * unitsPerPass s.profile * unit ∧
    (∀ c, c < total → ∃ u, runEdges (c + 1) s = .next u ∧ u.busy = true ∧ u.ports.cmdReady = false ∧
      u.accepts = false ∧
      ∀ k g, segs[k]? = some g → segStart unit segs k ≤ c → c < segStart unit segs (k + 1) → u.lineOut = g.level) ∧
    (∀ k g, segs[k]? = some g → segStart unit segs (k + 1) = segStart unit segs k + g.units * unit) ∧
    ∃ u, runEdges (total + 1) s = .next u ∧ u.busy = false ∧ u.lineOut = false ∧ u.ports.cmdReady = true ∧
      (u.pins.cmdValid = true → u.pins.rst = false → u.accepts = true)

/-! ## Time, status and result codes -/

/-- R151: `UNIT_CYC` is the least whole number of ticks that is not shorter than the pulse length, at least one, and
the pulse length itself at 1 MHz. -/
def Obligations.UnitIsTheCeilingOfThePulseLength : Prop :=
  ∀ (p : Params) (us : Half),
    us.toNat * p.fClk ≤ unitCyc p us * 1000000 ∧
    (∀ q, us.toNat * p.fClk ≤ q * 1000000 → unitCyc p us ≤ q) ∧
    (1 ≤ us.toNat → 1 ≤ p.fClk → 1 ≤ unitCyc p us) ∧
    (p.fClk = 1000000 → unitCyc p us = us.toNat)

/-- R154: a unit is never shorter than configured and less than one tick longer; a segment of `n` units less than
`n` ticks; and every duration is exact where the unit is a whole number of ticks. Durations are compared after
multiplying by `F_CLK × 10^6`. -/
def Obligations.SegmentsKeepTheAccuracyTarget : Prop :=
  ∀ (p : Params) (us : Half) (n : Nat), 1 ≤ n →
    (us.toNat * p.fClk ≤ unitCyc p us * 1000000 ∧ unitCyc p us * 1000000 < us.toNat * p.fClk + 1000000) ∧
    (n * us.toNat * p.fClk ≤ n * unitCyc p us * 1000000 ∧
      n * unitCyc p us * 1000000 < n * us.toNat * p.fClk + n * 1000000) ∧
    (1000000 ∣ us.toNat * p.fClk → n * unitCyc p us * 1000000 = n * us.toNat * p.fClk)

/-- R30, R31: the layout of the `STATUS` word, and its value after reset; the register that each other output port
carries, in every state. -/
def Obligations.StatusWordLayout : Prop :=
  (∀ s : State,
    s.ports.status.getLsbD 0 = s.busy ∧ s.ports.status.getLsbD 1 = s.bound ∧
    s.ports.status.extractLsb' 2 2 = s.profile.code ∧ s.ports.status.getLsbD 4 = s.lastValid ∧
    s.ports.status.extractLsb' 5 3 = 0#3 ∧ s.ports.status.extractLsb' 8 3 = s.lastResult.code ∧
    s.ports.status.extractLsb' 11 21 = 0#21 ∧
    s.ports.cmdReady = !s.busy ∧ s.ports.lineOut = s.lineOut ∧ s.ports.lineOe = s.bound ∧
    s.ports.lineSel = s.lineId ∧ s.ports.cfgPulseLen = s.pulseLen ∧ s.ports.cfgRepeat = s.repeatCnt ∧
    s.ports.lastWord = s.lastWord) ∧
  (∀ s t : State, s.pins.rst = true → step s = .next t → t.ports.status = 0x00000004#32)

/-- R250, R251: the result codes, with the cause, the commands and the whole state written for each. No code other
than 0 starts a transmission. -/
def Obligations.ResultCodesAndTheirEffects : Prop :=
  (ResultCode.ok.code = 0#3 ∧ ResultCode.invalidAddress.code = 1#3 ∧ ResultCode.badProfile.code = 2#3 ∧
    ResultCode.badPulseLen.code = 3#3 ∧ ResultCode.badSymbol.code = 4#3 ∧ ResultCode.lineFault.code = 5#3 ∧
    ResultCode.illegalCmd.code = 6#3 ∧ ∀ c : ResultCode, c.code ≠ 7#3) ∧
  ∀ s t : State, s.accepts = true → step s = .next t →
    (t.lastResult = .invalidAddress →
      (∃ i, s.acceptedInstr = some i ∧ encoderResult s.params i = some .invalid) ∧
      t = { s with lastWord := 0xFFFFFF#24, lastValid := false, lastResult := .invalidAddress, inputs := s.inputs.tail }) ∧
    (t.lastResult = .badProfile →
      (∃ n, s.acceptedInstr = some (.setProfile n) ∧ n ≠ 1#8 ∧ n ≠ 2#8) ∧
      t = { s with lastResult := .badProfile, inputs := s.inputs.tail }) ∧
    (t.lastResult = .badPulseLen →
      s.acceptedInstr = some (.setPulseLen 0#16) ∧
      t = { s with lastResult := .badPulseLen, inputs := s.inputs.tail }) ∧
    (t.lastResult = .badSymbol →
      (∃ f k, s.acceptedInstr = some (.sendTristate f) ∧ k < 12 ∧ symField f k = 3#2) ∧
      t = { s with lastResult := .badSymbol, inputs := s.inputs.tail }) ∧
    (t.lastResult = .lineFault →
      s.pins.openOk = false ∧ ∃ l, s.acceptedInstr = some (.enableTx l) ∧
      t = { s with lineId := l, bound := false, lastResult := .lineFault, inputs := s.inputs.tail }) ∧
    (t.lastResult = .illegalCmd →
      (∃ e, decode s.pins.cmdData = .error e) ∧
      t = { s with lastResult := .illegalCmd, inputs := s.inputs.tail }) ∧
    (t.lastResult ≠ .ok → t.busy = false)

/-- R255: the checks in their order give the result code of every accepted word, at most one of the checks of steps 2
to 4 can fail for one command, and an `OK` transmitting command that is unbound or has `REPEAT = 0` emits
nothing. -/
def Obligations.ChecksGiveTheResultInOrder : Prop :=
  (∀ s : State, s.accepts = true →
    ∃ t, step s = .next t ∧ t.lastResult = orderedResult s s.pins.cmdData ∧
      (s.bound = false ∨ s.repeatCnt = 0#16 → t.busy = false)) ∧
  (∀ (i : Instr) (p : Params) (openOk : Bool),
    (argumentCheck i ≠ none → encoderCheck p i = none ∧ lineCheck openOk i = none) ∧
    (encoderCheck p i ≠ none → argumentCheck i = none ∧ lineCheck openOk i = none) ∧
    (lineCheck openOk i ≠ none → argumentCheck i = none ∧ encoderCheck p i = none))

/-! ## Several units, and how a host writes commands -/

/-- R60, R263: units share nothing: an edge of one leaves every other as it was and is that unit's own step, and edges
of two units may come in either order. That a model step is an edge of one unit is the model's choice (log entry
7). -/
def Obligations.UnitsAreIndependent : Prop :=
  ∀ (sys : System) (j k : Nat), j ≠ k →
    ∃ sj sk sjk, sys.stepUnit j = .next sj ∧ sys.stepUnit k = .next sk ∧
      sj.units.length = sys.units.length ∧
      (∀ m, m ≠ j → sj.units[m]? = sys.units[m]?) ∧
      (∀ s t, sys.units[j]? = some s → step s = .next t → sj.units[j]? = some t) ∧
      sj.stepUnit k = .next sjk ∧ sk.stepUnit j = .next sjk

/-- R261, R262, R264: the level of a physical line: undriven with no bound unit on it, the one bound unit's `LINE_OUT`,
and no level at all while two units are bound to it, for every map a platform has from `LINE_SEL` to lines. The
model's choice (log entry 8): that an undriven line has no level, that a shared line is a fault of the question what
level it has, and that the level holds under the collaborator's duties of R262. -/
def Obligations.OnlyOneUnitGivesALineItsLevel : Prop :=
  ∀ (sys : System) (lineOf : LineMap) (line : Nat),
    ((∀ k s, sys.units[k]? = some s → drives lineOf line k s = false) → sys.wire lineOf line = .next none) ∧
    (∀ k s, sys.units[k]? = some s → drives lineOf line k s = true →
      (∀ j u, sys.units[j]? = some u → drives lineOf line j u = true → j = k) →
      sys.wire lineOf line = .next (some s.lineOut)) ∧
    (∀ j k s u, sys.units[j]? = some s → sys.units[k]? = some u → j ≠ k →
      drives lineOf line j s = true → drives lineOf line k u = true →
      sys.wire lineOf line = .fault .lineShared)

/-- R74, R82, R83: each source operation expands to its one command, and an argument that does not fit its field
cannot be assembled. The model's choice (log entry 10): a character, of a family or of a DIP string, fits where its
code point is below 256, and that is its code; and (log entry 12): an operation is a value, its word a string, which may
hold `X` for the reserved code, and its family a character. The number that R82 also allows as a word or a family is
left out: it is no argument of an operation here. -/
def Obligations.SourceOperationsExpand : Prop :=
  (∀ g c : Int, fitsField 8 g → fitsField 8 c →
    SourceOp.expand (.switchGroup true g c) = some (.swonB (.ofInt 8 g) (.ofInt 8 c)) ∧
    SourceOp.expand (.switchGroup false g c) = some (.swoffB (.ofInt 8 g) (.ofInt 8 c)) ∧
    SourceOp.expand (.encodeTypeB g c true) = some (.enconB (.ofInt 8 g) (.ofInt 8 c)) ∧
    SourceOp.expand (.encodeTypeB g c false) = some (.encoffB (.ofInt 8 g) (.ofInt 8 c))) ∧
  (∀ (g c : Int) (on : Bool), ¬ (fitsField 8 g ∧ fitsField 8 c) →
    SourceOp.expand (.switchGroup on g c) = none ∧ SourceOp.expand (.encodeTypeB g c on) = none) ∧
  (∀ (d : List Char) (c : Int), fitsDip d → fitsField 8 c →
    SourceOp.expand (.switchDip true d c) = some (.swonA (charCodes d) (.ofInt 8 c)) ∧
    SourceOp.expand (.switchDip false d c) = some (.swoffA (charCodes d) (.ofInt 8 c)) ∧
    SourceOp.expand (.switchBinary true d c) = some (.swonD (charCodes d) (.ofInt 8 c)) ∧
    SourceOp.expand (.switchBinary false d c) = some (.swoffD (charCodes d) (.ofInt 8 c)) ∧
    SourceOp.expand (.encodeTypeA d c true) = some (.enconA (charCodes d) (.ofInt 8 c)) ∧
    SourceOp.expand (.encodeTypeA d c false) = some (.encoffA (charCodes d) (.ofInt 8 c)) ∧
    SourceOp.expand (.encodeTypeD d c true) = some (.enconD (charCodes d) (.ofInt 8 c)) ∧
    SourceOp.expand (.encodeTypeD d c false) = some (.encoffD (charCodes d) (.ofInt 8 c))) ∧
  (∀ (d : List Char) (c : Int) (on : Bool), ¬ (fitsDip d ∧ fitsField 8 c) →
    SourceOp.expand (.switchDip on d c) = none ∧ SourceOp.expand (.switchBinary on d c) = none ∧
    SourceOp.expand (.encodeTypeA d c on) = none ∧ SourceOp.expand (.encodeTypeD d c on) = none) ∧
  (∀ (f : Char) (g d : Int), f.toNat < 256 → fitsField 8 g → fitsField 8 d →
    SourceOp.expand (.switchFamily true f g d) = some (.swonC (.ofNat 8 f.toNat) (.ofInt 8 g) (.ofInt 8 d)) ∧
    SourceOp.expand (.switchFamily false f g d) = some (.swoffC (.ofNat 8 f.toNat) (.ofInt 8 g) (.ofInt 8 d)) ∧
    SourceOp.expand (.encodeTypeC f g d true) = some (.enconC (.ofNat 8 f.toNat) (.ofInt 8 g) (.ofInt 8 d)) ∧
    SourceOp.expand (.encodeTypeC f g d false) = some (.encoffC (.ofNat 8 f.toNat) (.ofInt 8 g) (.ofInt 8 d))) ∧
  (∀ (f : Char) (g d : Int) (on : Bool), ¬ (f.toNat < 256 ∧ fitsField 8 g ∧ fitsField 8 d) →
    SourceOp.expand (.switchFamily on f g d) = none ∧ SourceOp.expand (.encodeTypeC f g d on) = none) ∧
  (∀ v : Int,
    (fitsField 8 v →
      SourceOp.expand (.setProtocol v) = some (.setProfile (.ofInt 8 v)) ∧
      SourceOp.expand (.setProfile v) = some (.setProfile (.ofInt 8 v)) ∧
      SourceOp.expand (.enableTransmit v) = some (.enableTx (.ofInt 8 v))) ∧
    (¬ fitsField 8 v →
      SourceOp.expand (.setProtocol v) = none ∧ SourceOp.expand (.setProfile v) = none ∧
      SourceOp.expand (.enableTransmit v) = none) ∧
    (fitsField 16 v →
      SourceOp.expand (.setPulseLength v) = some (.setPulseLen (.ofInt 16 v)) ∧
      SourceOp.expand (.setRepeatCount v) = some (.setRepeat (.ofInt 16 v))) ∧
    (¬ fitsField 16 v →
      SourceOp.expand (.setPulseLength v) = none ∧ SourceOp.expand (.setRepeatCount v) = none)) ∧
  SourceOp.expand .disableTransmit = some .disableTx ∧
  (∀ w : List (BitVec 2), w.length = 12 →
    ∃ f, SourceOp.expand (.sendTriState (w.map fieldChar)) = some (.sendTristate f) ∧
      ∀ i, i < 12 → symField f i = w.getD i 0#2) ∧
  (∀ w : List Char, w.length ≠ 12 ∨ (∃ c ∈ w, c ≠ '0' ∧ c ≠ '1' ∧ c ≠ 'F' ∧ c ≠ 'X') →
    SourceOp.expand (.sendTriState w) = none)

/-! ## Operand positions -/

/-- R76, R77: the opcode and the operand positions of the sixteen commands of formats AD, GB and FC, at every value of
every field, by the weights of the fields in the word. (`SendTristateRule` and the configuration rules state the
positions of the other six.) -/
def Obligations.OperandsStandWhereTheFormatsPutThem : Prop :=
  (∀ d0 d1 d2 d3 d4 chan : Byte,
    decode (adWord 0x10 d0 d1 d2 d3 d4 chan) = .ok (.swoffA [d0, d1, d2, d3, d4] chan) ∧
    decode (adWord 0x11 d0 d1 d2 d3 d4 chan) = .ok (.swonA [d0, d1, d2, d3, d4] chan) ∧
    decode (adWord 0x16 d0 d1 d2 d3 d4 chan) = .ok (.swoffD [d0, d1, d2, d3, d4] chan) ∧
    decode (adWord 0x17 d0 d1 d2 d3 d4 chan) = .ok (.swonD [d0, d1, d2, d3, d4] chan) ∧
    decode (adWord 0x20 d0 d1 d2 d3 d4 chan) = .ok (.encoffA [d0, d1, d2, d3, d4] chan) ∧
    decode (adWord 0x21 d0 d1 d2 d3 d4 chan) = .ok (.enconA [d0, d1, d2, d3, d4] chan) ∧
    decode (adWord 0x26 d0 d1 d2 d3 d4 chan) = .ok (.encoffD [d0, d1, d2, d3, d4] chan) ∧
    decode (adWord 0x27 d0 d1 d2 d3 d4 chan) = .ok (.enconD [d0, d1, d2, d3, d4] chan)) ∧
  (∀ group chan : Byte,
    decode (gbWord 0x12 group chan) = .ok (.swoffB group chan) ∧
    decode (gbWord 0x13 group chan) = .ok (.swonB group chan) ∧
    decode (gbWord 0x22 group chan) = .ok (.encoffB group chan) ∧
    decode (gbWord 0x23 group chan) = .ok (.enconB group chan)) ∧
  (∀ family group dev : Byte,
    decode (fcWord 0x14 family group dev) = .ok (.swoffC family group dev) ∧
    decode (fcWord 0x15 family group dev) = .ok (.swonC family group dev) ∧
    decode (fcWord 0x24 family group dev) = .ok (.encoffC family group dev) ∧
    decode (fcWord 0x25 family group dev) = .ok (.enconC family group dev))
end

