-- ==== Sys2Proof/Laws/Decode.lean ====
section
/-! SUPPORT. The arithmetic of command words: a word as the number of its bytes, its fields as digits of that
number, and the opcode byte and its inverse. -/

namespace Sys2Proof

theorem natOfBytes_lt (bs : List Byte) : natOfBytes bs < 256 ^ bs.length := by
  induction bs with
  | nil => simp [natOfBytes]
  | cons b bs ih =>
    have := b.isLt
    simp only [natOfBytes, List.length_cons, Nat.pow_succ]
    omega

theorem field8_toNat (w : CmdWord) (lo : Nat) : (field8 w lo).toNat = w.toNat / 2 ^ lo % 256 := by
  rw [field8, BitVec.extractLsb'_toNat, Nat.shiftRight_eq_div_pow]

/-- A byte field is a byte where the word, as a number, has that byte there. -/
theorem field8_eq {w : CmdWord} {b : Byte} {lo : Nat} (h : w.toNat / 2 ^ lo % 256 = b.toNat) : field8 w lo = b :=
  BitVec.eq_of_toNat_eq ((field8_toNat w lo).trans h)

theorem field16_toNat (w : CmdWord) : (field16 w).toNat = w.toNat / 256 % 65536 := by
  rw [field16, BitVec.extractLsb'_toNat, Nat.shiftRight_eq_div_pow]

theorem field24_toNat (w : CmdWord) : (field24 w).toNat = w.toNat / 256 % 16777216 := by
  rw [field24, BitVec.extractLsb'_toNat, Nat.shiftRight_eq_div_pow]

@[simp] theorem ofByte_byte (op : Opcode) : Opcode.ofByte op.byte = some op := by cases op <;> rfl

/-- A byte that is a mnemonic's is that mnemonic's opcode (R77). -/
theorem ofByte_eq_some_iff {b : Byte} {op : Opcode} : Opcode.ofByte b = some op ↔ b = op.byte := by
  constructor
  · intro h
    revert h
    revert b op
    decide +revert
  · rintro rfl
    simp

/-- The reserved bits of a format are clear exactly where the word is a number of its used bits. -/
theorem reservedClear_iff {f : Format} {w : CmdWord} : f.reservedClear w = true ↔ w.toNat < 2 ^ f.usedBits := by
  unfold Format.reservedClear
  rw [beq_iff_eq, Nat.shiftRight_eq_div_pow, Nat.div_eq_zero_iff]
  simp

/-- Everything the decoder can answer. -/
theorem decode_eq_ok_iff {w : CmdWord} {i : Instr} : decode w = .ok i ↔
    ∃ op : Opcode, field8 w 0 = op.byte ∧ w.toNat < 2 ^ op.format.usedBits ∧ i = op.withOperands w := by
  unfold decode
  cases h : Opcode.ofByte (field8 w 0) with
  | none =>
    simp only [reduceCtorEq, false_iff, not_exists, not_and]
    intro op hop
    rw [hop] at h
    simp at h
  | some op =>
    have hop := ofByte_eq_some_iff.1 h
    by_cases hc : op.format.reservedClear w = true
    · simp only [hc, if_true, Except.ok.injEq]
      constructor
      · rintro rfl; exact ⟨op, hop, reservedClear_iff.1 hc, rfl⟩
      · rintro ⟨op', h', -, rfl⟩
        rw [hop] at h'
        have : Opcode.ofByte op.byte = Opcode.ofByte op'.byte := by rw [h']
        simp at this
        rw [this]
    · simp only [if_neg hc]
      simp only [reduceCtorEq, false_iff, not_exists, not_and]
      intro op' h' hlt
      rw [hop] at h'
      have : Opcode.ofByte op.byte = Opcode.ofByte op'.byte := by rw [h']
      simp at this
      subst this
      exact absurd (reservedClear_iff.2 hlt) hc

/-- The opcode byte of an encoded command is its mnemonic's. -/
theorem field8_encode (i : Instr) : field8 (encode i) 0 = i.opcode.byte := by
  have := i.opcode.byte.isLt
  apply BitVec.eq_of_toNat_eq
  rw [field8_toNat, encode, BitVec.toNat_ofNat, natOfBytes]
  omega

end Sys2Proof
end

