-- ==== Sys2Proof/Laws/Operands.lean ====
section
/-! SUPPORT. The small lemmas about symbol strings, code-word fields and DIP strings that statements about the
encoder and about `SEND_TRISTATE` rest on. -/

namespace Sys2Proof.Machine

open Sys2Proof

@[simp] theorem allPresent_nil {α : Type} : allPresent ([] : List (Option α)) = some [] := rfl

@[simp] theorem allPresent_none_cons {α : Type} (l : List (Option α)) : allPresent (none :: l) = none := rfl

@[simp] theorem allPresent_some_cons {α : Type} (a : α) (l : List (Option α)) :
    allPresent (some a :: l) = (allPresent l).map (a :: ·) := rfl

/-- `allPresent` answers exactly the list whose members are all there. -/
theorem allPresent_eq_some_iff {α : Type} {l : List (Option α)} {r : List α} :
    allPresent l = some r ↔ l = r.map some := by
  induction l generalizing r with
  | nil => cases r <;> simp
  | cons o l ih =>
    cases o with
    | none => cases r <;> simp
    | some a =>
      cases r with
      | nil => simp
      | cons b r => simp [ih, and_comm]

/-- `allPresent` answers nothing exactly where a member is missing. -/
theorem allPresent_eq_none_iff {α : Type} {l : List (Option α)} : allPresent l = none ↔ none ∈ l := by
  induction l with
  | nil => simp
  | cons o l ih => cases o <;> simp [ih]

theorem allPresent_length {α : Type} {l : List (Option α)} {r : List α} (h : allPresent l = some r) :
    r.length = l.length := by
  rw [allPresent_eq_some_iff.1 h, List.length_map]

theorem symCode_lt (a : TriSym) : symCode a < 3 := by cases a <;> decide

@[simp] theorem symOfCode_symCode (a : TriSym) : symOfCode (BitVec.ofNat 2 (symCode a)) = some a := by
  cases a <;> rfl

/-- A symbol has one code. -/
theorem symOfCode_eq_some_iff {c : BitVec 2} {a : TriSym} :
    symOfCode c = some a ↔ c = BitVec.ofNat 2 (symCode a) := by
  revert c; cases a <;> decide

theorem symOfCode_eq_none_iff {c : BitVec 2} : symOfCode c = none ↔ c = 3#2 := by
  revert c; decide

theorem packNat_lt (w : List TriSym) : packNat w < 4 ^ w.length := by
  induction w with
  | nil => simp [packNat]
  | cons a w ih =>
    have := symCode_lt a
    simp only [packNat, List.length_cons, Nat.pow_succ]
    omega

/-- Symbol `i` is digit `i`, base 4. -/
theorem packNat_digit (w : List TriSym) (i : Nat) (h : i < w.length) :
    packNat w / 4 ^ i % 4 = symCode w[i] := by
  induction w generalizing i with
  | nil => simp at h
  | cons a w ih =>
    have ha := symCode_lt a
    cases i with
    | zero => simp only [packNat, Nat.pow_zero, Nat.div_one, List.getElem_cons_zero]; omega
    | succ i =>
      have hd : packNat (a :: w) / 4 ^ (i + 1) = packNat w / 4 ^ i := by
        rw [Nat.pow_succ', ← Nat.div_div_eq_div_mul]
        congr 1
        simp only [packNat]
        omega
      rw [hd, List.getElem_cons_succ]
      exact ih i (by simpa using h)

theorem pack_toNat {w : List TriSym} (h : w.length = 12) : (pack w).toNat = packNat w := by
  have := packNat_lt w
  rw [h] at this
  simpa [pack] using this

/-- Symbol field `i` of a packed word holds the code of symbol `i` (R72). -/
theorem symField_pack {w : List TriSym} (h : w.length = 12) (i : Nat) (hi : i < w.length) :
    (symField (pack w) i).toNat = symCode w[i] := by
  rw [symField, BitVec.extractLsb'_toNat, pack_toNat h, Nat.shiftRight_eq_div_pow, Nat.pow_mul]
  exact packNat_digit w i hi

/-- A field is read as the string whose codes it holds (R73). -/
theorem unpack_eq_some_iff {f : CodeField} {w : List TriSym} :
    unpack f = some w ↔ (List.range 12).map (fun i => symOfCode (symField f i)) = w.map some := by
  rw [unpack, allPresent_eq_some_iff]

theorem unpack_length {f : CodeField} {w : List TriSym} (h : unpack f = some w) : w.length = 12 := by
  simpa using allPresent_length h

/-- A DIP character either is one of the rule's three, or is missing from the transform (R102). -/
theorem dipSymbol_eq_some_iff {acceptF : Bool} {c : Byte} {a : TriSym} : dipSymbol acceptF c = some a ↔
    (c = char0 ∧ a = .sF) ∨ (c = char1 ∧ a = .s0) ∨ (c = charF ∧ acceptF = true ∧ a = .sF) := by
  have h01 : char0 ≠ char1 := by decide
  have h0F : char0 ≠ charF := by decide
  have h1F : char1 ≠ charF := by decide
  unfold dipSymbol
  split
  · subst c; simp [h01, h0F, eq_comm]
  · split
    · subst c; simp [h01.symm, h1F, eq_comm]
    · split <;> rename_i h0 h1 h <;> simp_all [eq_comm]

theorem dipTransform_eq_some_iff {acceptF : Bool} {d : List Byte} {t : List TriSym} :
    dipTransform acceptF d = some t ↔ d.length = 5 ∧ d.map (dipSymbol acceptF) = t.map some := by
  unfold dipTransform
  split <;> simp_all [allPresent_eq_some_iff]

theorem dipTransform_length {acceptF : Bool} {d : List Byte} {t : List TriSym}
    (h : dipTransform acceptF d = some t) : t.length = 5 := by
  obtain ⟨hd, ht⟩ := dipTransform_eq_some_iff.1 h
  simpa [hd] using (congrArg List.length ht).symm

@[simp] theorem bin_length (v n : Nat) : (bin v n).length = n := by
  induction n generalizing v with
  | zero => rfl
  | succ n ih => simp [bin, ih]

@[simp] theorem familyString_length (e : Sym4) : (familyString e).length = 4 := rfl

@[simp] theorem familyCode_length (p : Params) (k : Nat) : (familyCode p k).length = 4 := by
  cases k <;> rfl

theorem nibble_length {n : Nat} (h : 1 ≤ n ∧ n ≤ 4) : (nibble n).length = 4 := by
  obtain ⟨h1, h2⟩ := h
  interval_cases n <;> rfl

theorem position_length {n : Nat} (h : 1 ≤ n ∧ n ≤ 5) : (position n).length = 5 := by
  obtain ⟨h1, h2⟩ := h
  interval_cases n <;> rfl

@[simp] theorem statusSymbol_length (on : Bool) : (statusSymbol on).length = 1 := by cases on <;> rfl

@[simp] theorem statusSuffix_length (on : Bool) : (statusSuffix on).length = 2 := by cases on <;> rfl

/-- The two profile numbers (R170). -/
theorem profileOf_eq_some_iff {n : Byte} {p : Profile} : profileOf n = some p ↔
    (n = 1#8 ∧ p = .p1) ∨ (n = 2#8 ∧ p = .p2) := by
  cases p <;> decide +revert

theorem profileOf_eq_none_iff {n : Byte} : profileOf n = none ↔ n ≠ 1#8 ∧ n ≠ 2#8 := by
  decide +revert

end Sys2Proof.Machine
end

