-- ==== Sys2Proof/Laws/Encoder.lean ====
section
/-! SUPPORT. What a valid result of each encoder is made of (40_encoder.md R103 to R106): one inversion lemma per
encoder, and the condition for an invalid one. -/

namespace Sys2Proof.Machine

open Sys2Proof

theorem guarded_eq_valid_iff {c : Prop} [Decidable c] {v w : List TriSym} :
    (if c then EncResult.valid v else .invalid) = .valid w ↔ c ∧ w = v := by
  by_cases h : c <;> simp [h, @eq_comm (List TriSym)]

theorem guarded_eq_invalid_iff {c : Prop} [Decidable c] {v : List TriSym} :
    (if c then EncResult.valid v else .invalid) = .invalid ↔ ¬ c := by
  by_cases h : c <;> simp [h]

theorem encA_eq_valid_iff {p : Params} {d : List Byte} {chan : Byte} {on : Bool} {w : List TriSym} :
    encA p d chan on = .valid w ↔ ∃ t, dipTransform p.dipAcceptF d = some t ∧ inRange chan 1 5 ∧
      w = t ++ position chan.toNat ++ statusSuffix on := by
  unfold encA
  cases dipTransform p.dipAcceptF d with
  | none => simp
  | some t => simp [guarded_eq_valid_iff]

theorem encA_eq_invalid_iff {p : Params} {d : List Byte} {chan : Byte} {on : Bool} :
    encA p d chan on = .invalid ↔ dipTransform p.dipAcceptF d = none ∨ ¬ inRange chan 1 5 := by
  unfold encA
  cases dipTransform p.dipAcceptF d with
  | none => simp
  | some t => simp only [guarded_eq_invalid_iff, reduceCtorEq, false_or]

theorem encB_eq_valid_iff {group chan : Byte} {on : Bool} {w : List TriSym} :
    encB group chan on = .valid w ↔ inRange group 1 4 ∧ inRange chan 1 4 ∧
      w = nibble group.toNat ++ nibble chan.toNat ++ [.sF, .sF, .sF] ++ statusSymbol on := by
  unfold encB
  rw [guarded_eq_valid_iff, and_assoc]

theorem encB_eq_invalid_iff {group chan : Byte} {on : Bool} :
    encB group chan on = .invalid ↔ ¬ inRange group 1 4 ∨ ¬ inRange chan 1 4 := by
  unfold encB
  rw [guarded_eq_invalid_iff, not_and_or]

theorem encC_eq_valid_iff {p : Params} {fam group dev : Byte} {on : Bool} {w : List TriSym} :
    encC p fam group dev on = .valid w ↔
      inRange fam 0x61 0x70 ∧ inRange group 1 4 ∧ inRange dev 1 4 ∧
      w = familyCode p (fam.toNat - 0x61)
        ++ (bin ((dev.toNat - 1) + (group.toNat - 1) * 4) 4).map indexSymbol
        ++ [.s0, .sF, .sF] ++ statusSymbol on := by
  have ha : charA.toNat = 0x61 := by decide
  have hp : charP.toNat = 0x70 := by decide
  unfold encC
  rw [ha, hp]
  rw [guarded_eq_valid_iff]
  tauto

theorem encC_eq_invalid_iff {p : Params} {fam group dev : Byte} {on : Bool} :
    encC p fam group dev on = .invalid ↔
      ¬ inRange fam 0x61 0x70 ∨ ¬ inRange group 1 4 ∨ ¬ inRange dev 1 4 := by
  have ha : charA.toNat = 0x61 := by decide
  have hp : charP.toNat = 0x70 := by decide
  unfold encC
  rw [ha, hp]
  rw [guarded_eq_invalid_iff]
  tauto

theorem encD_eq_valid_iff {p : Params} {d : List Byte} {chan : Byte} {on : Bool} {w : List TriSym} :
    encD p d chan on = .valid w ↔ ∃ t, dipTransform p.dipAcceptF d = some t ∧ inRange chan 1 31 ∧
      w = t ++ (bin chan.toNat 5).map channelSymbol ++ statusSuffix on := by
  unfold encD
  cases dipTransform p.dipAcceptF d with
  | none => simp
  | some t => simp [guarded_eq_valid_iff]

theorem encD_eq_invalid_iff {p : Params} {d : List Byte} {chan : Byte} {on : Bool} :
    encD p d chan on = .invalid ↔ dipTransform p.dipAcceptF d = none ∨ ¬ inRange chan 1 31 := by
  unfold encD
  cases dipTransform p.dipAcceptF d with
  | none => simp
  | some t => simp only [guarded_eq_invalid_iff, reduceCtorEq, false_or]

end Sys2Proof.Machine
end

