-- ==== Sys2Proof/Laws/State.lean ====
section
/-! SUPPORT. What each shared operation leaves in each field of the state: one lemma per field per update, so that
no proof unfolds a record update. -/

namespace Sys2Proof.Machine

open Sys2Proof

/-! `raise Result(code)` writes `LAST_RESULT` alone (R14). -/

@[simp] theorem raiseResult_bound (c : ResultCode) (s : State) : (raiseResult c s).bound = s.bound := rfl
@[simp] theorem raiseResult_lineId (c : ResultCode) (s : State) : (raiseResult c s).lineId = s.lineId := rfl
@[simp] theorem raiseResult_profile (c : ResultCode) (s : State) : (raiseResult c s).profile = s.profile := rfl
@[simp] theorem raiseResult_pulseLen (c : ResultCode) (s : State) : (raiseResult c s).pulseLen = s.pulseLen := rfl
@[simp] theorem raiseResult_repeatCnt (c : ResultCode) (s : State) : (raiseResult c s).repeatCnt = s.repeatCnt := rfl
@[simp] theorem raiseResult_lastWord (c : ResultCode) (s : State) : (raiseResult c s).lastWord = s.lastWord := rfl
@[simp] theorem raiseResult_lastValid (c : ResultCode) (s : State) : (raiseResult c s).lastValid = s.lastValid := rfl
@[simp] theorem raiseResult_lastResult (c : ResultCode) (s : State) : (raiseResult c s).lastResult = c := rfl
@[simp] theorem raiseResult_busy (c : ResultCode) (s : State) : (raiseResult c s).busy = s.busy := rfl
@[simp] theorem raiseResult_lineOut (c : ResultCode) (s : State) : (raiseResult c s).lineOut = s.lineOut := rfl
@[simp] theorem raiseResult_txSegs (c : ResultCode) (s : State) : (raiseResult c s).txSegs = s.txSegs := rfl
@[simp] theorem raiseResult_txTicks (c : ResultCode) (s : State) : (raiseResult c s).txTicks = s.txTicks := rfl
@[simp] theorem raiseResult_txUnit (c : ResultCode) (s : State) : (raiseResult c s).txUnit = s.txUnit := rfl
@[simp] theorem raiseResult_params (c : ResultCode) (s : State) : (raiseResult c s).params = s.params := rfl
@[simp] theorem raiseResult_inputs (c : ResultCode) (s : State) : (raiseResult c s).inputs = s.inputs := rfl

/-! `finish` writes `OK` (R14). -/

@[simp] theorem finish_bound (s : State) : (finish s).bound = s.bound := rfl
@[simp] theorem finish_lineId (s : State) : (finish s).lineId = s.lineId := rfl
@[simp] theorem finish_profile (s : State) : (finish s).profile = s.profile := rfl
@[simp] theorem finish_pulseLen (s : State) : (finish s).pulseLen = s.pulseLen := rfl
@[simp] theorem finish_repeatCnt (s : State) : (finish s).repeatCnt = s.repeatCnt := rfl
@[simp] theorem finish_lastWord (s : State) : (finish s).lastWord = s.lastWord := rfl
@[simp] theorem finish_lastValid (s : State) : (finish s).lastValid = s.lastValid := rfl
@[simp] theorem finish_lastResult (s : State) : (finish s).lastResult = .ok := rfl
@[simp] theorem finish_busy (s : State) : (finish s).busy = s.busy := rfl
@[simp] theorem finish_lineOut (s : State) : (finish s).lineOut = s.lineOut := rfl
@[simp] theorem finish_txSegs (s : State) : (finish s).txSegs = s.txSegs := rfl
@[simp] theorem finish_txTicks (s : State) : (finish s).txTicks = s.txTicks := rfl
@[simp] theorem finish_txUnit (s : State) : (finish s).txUnit = s.txUnit := rfl
@[simp] theorem finish_params (s : State) : (finish s).params = s.params := rfl
@[simp] theorem finish_inputs (s : State) : (finish s).inputs = s.inputs := rfl

/-! `Latch(Invalid)` (R109). -/

@[simp] theorem latch_invalid_bound (s : State) : (latch .invalid s).bound = s.bound := rfl
@[simp] theorem latch_invalid_lineId (s : State) : (latch .invalid s).lineId = s.lineId := rfl
@[simp] theorem latch_invalid_profile (s : State) : (latch .invalid s).profile = s.profile := rfl
@[simp] theorem latch_invalid_pulseLen (s : State) : (latch .invalid s).pulseLen = s.pulseLen := rfl
@[simp] theorem latch_invalid_repeatCnt (s : State) : (latch .invalid s).repeatCnt = s.repeatCnt := rfl
@[simp] theorem latch_invalid_lastWord (s : State) : (latch .invalid s).lastWord = invalidPattern := rfl
@[simp] theorem latch_invalid_lastValid (s : State) : (latch .invalid s).lastValid = false := rfl
@[simp] theorem latch_invalid_lastResult (s : State) : (latch .invalid s).lastResult = .invalidAddress := rfl
@[simp] theorem latch_invalid_busy (s : State) : (latch .invalid s).busy = s.busy := rfl
@[simp] theorem latch_invalid_lineOut (s : State) : (latch .invalid s).lineOut = s.lineOut := rfl
@[simp] theorem latch_invalid_txSegs (s : State) : (latch .invalid s).txSegs = s.txSegs := rfl
@[simp] theorem latch_invalid_txTicks (s : State) : (latch .invalid s).txTicks = s.txTicks := rfl
@[simp] theorem latch_invalid_txUnit (s : State) : (latch .invalid s).txUnit = s.txUnit := rfl
@[simp] theorem latch_invalid_params (s : State) : (latch .invalid s).params = s.params := rfl
@[simp] theorem latch_invalid_inputs (s : State) : (latch .invalid s).inputs = s.inputs := rfl

/-! `Latch(Valid(w))` (R109). -/

@[simp] theorem latch_valid_bound (w : List TriSym) (s : State) : (latch (.valid w) s).bound = s.bound := rfl
@[simp] theorem latch_valid_lineId (w : List TriSym) (s : State) : (latch (.valid w) s).lineId = s.lineId := rfl
@[simp] theorem latch_valid_profile (w : List TriSym) (s : State) : (latch (.valid w) s).profile = s.profile := rfl
@[simp] theorem latch_valid_pulseLen (w : List TriSym) (s : State) : (latch (.valid w) s).pulseLen = s.pulseLen := rfl
@[simp] theorem latch_valid_repeatCnt (w : List TriSym) (s : State) : (latch (.valid w) s).repeatCnt = s.repeatCnt := rfl
@[simp] theorem latch_valid_lastWord (w : List TriSym) (s : State) : (latch (.valid w) s).lastWord = pack w := rfl
@[simp] theorem latch_valid_lastValid (w : List TriSym) (s : State) : (latch (.valid w) s).lastValid = true := rfl
@[simp] theorem latch_valid_lastResult (w : List TriSym) (s : State) : (latch (.valid w) s).lastResult = .ok := rfl
@[simp] theorem latch_valid_busy (w : List TriSym) (s : State) : (latch (.valid w) s).busy = s.busy := rfl
@[simp] theorem latch_valid_lineOut (w : List TriSym) (s : State) : (latch (.valid w) s).lineOut = s.lineOut := rfl
@[simp] theorem latch_valid_txSegs (w : List TriSym) (s : State) : (latch (.valid w) s).txSegs = s.txSegs := rfl
@[simp] theorem latch_valid_txTicks (w : List TriSym) (s : State) : (latch (.valid w) s).txTicks = s.txTicks := rfl
@[simp] theorem latch_valid_txUnit (w : List TriSym) (s : State) : (latch (.valid w) s).txUnit = s.txUnit := rfl
@[simp] theorem latch_valid_params (w : List TriSym) (s : State) : (latch (.valid w) s).params = s.params := rfl
@[simp] theorem latch_valid_inputs (w : List TriSym) (s : State) : (latch (.valid w) s).inputs = s.inputs := rfl

/-! `Start` of a non-empty list (R205). -/

@[simp] theorem start_cons_bound (g : Segment) (rest : List Segment) (s : State) : (start (g :: rest) s).bound = s.bound := rfl
@[simp] theorem start_cons_lineId (g : Segment) (rest : List Segment) (s : State) : (start (g :: rest) s).lineId = s.lineId := rfl
@[simp] theorem start_cons_profile (g : Segment) (rest : List Segment) (s : State) : (start (g :: rest) s).profile = s.profile := rfl
@[simp] theorem start_cons_pulseLen (g : Segment) (rest : List Segment) (s : State) : (start (g :: rest) s).pulseLen = s.pulseLen := rfl
@[simp] theorem start_cons_repeatCnt (g : Segment) (rest : List Segment) (s : State) : (start (g :: rest) s).repeatCnt = s.repeatCnt := rfl
@[simp] theorem start_cons_lastWord (g : Segment) (rest : List Segment) (s : State) : (start (g :: rest) s).lastWord = s.lastWord := rfl
@[simp] theorem start_cons_lastValid (g : Segment) (rest : List Segment) (s : State) : (start (g :: rest) s).lastValid = s.lastValid := rfl
@[simp] theorem start_cons_lastResult (g : Segment) (rest : List Segment) (s : State) : (start (g :: rest) s).lastResult = s.lastResult := rfl
@[simp] theorem start_cons_busy (g : Segment) (rest : List Segment) (s : State) : (start (g :: rest) s).busy = true := rfl
@[simp] theorem start_cons_lineOut (g : Segment) (rest : List Segment) (s : State) : (start (g :: rest) s).lineOut = true := rfl
@[simp] theorem start_cons_txSegs (g : Segment) (rest : List Segment) (s : State) : (start (g :: rest) s).txSegs = rest := rfl
@[simp] theorem start_cons_txTicks (g : Segment) (rest : List Segment) (s : State) : (start (g :: rest) s).txTicks = g.units * unitCyc s.params s.pulseLen := rfl
@[simp] theorem start_cons_txUnit (g : Segment) (rest : List Segment) (s : State) : (start (g :: rest) s).txUnit = unitCyc s.params s.pulseLen := rfl
@[simp] theorem start_cons_params (g : Segment) (rest : List Segment) (s : State) : (start (g :: rest) s).params = s.params := rfl
@[simp] theorem start_cons_inputs (g : Segment) (rest : List Segment) (s : State) : (start (g :: rest) s).inputs = s.inputs := rfl

/-! A reset edge (R290, R293). -/

@[simp] theorem resetRegisters_bound (s : State) : (resetRegisters s).bound = false := rfl
@[simp] theorem resetRegisters_lineId (s : State) : (resetRegisters s).lineId = 0#8 := rfl
@[simp] theorem resetRegisters_profile (s : State) : (resetRegisters s).profile = .p1 := rfl
@[simp] theorem resetRegisters_pulseLen (s : State) : (resetRegisters s).pulseLen = 350#16 := rfl
@[simp] theorem resetRegisters_repeatCnt (s : State) : (resetRegisters s).repeatCnt = 10#16 := rfl
@[simp] theorem resetRegisters_lastWord (s : State) : (resetRegisters s).lastWord = 0xFFFFFF#24 := rfl
@[simp] theorem resetRegisters_lastValid (s : State) : (resetRegisters s).lastValid = false := rfl
@[simp] theorem resetRegisters_lastResult (s : State) : (resetRegisters s).lastResult = .ok := rfl
@[simp] theorem resetRegisters_busy (s : State) : (resetRegisters s).busy = false := rfl
@[simp] theorem resetRegisters_lineOut (s : State) : (resetRegisters s).lineOut = false := rfl
@[simp] theorem resetRegisters_txSegs (s : State) : (resetRegisters s).txSegs = [] := rfl
@[simp] theorem resetRegisters_txTicks (s : State) : (resetRegisters s).txTicks = 0 := rfl
@[simp] theorem resetRegisters_txUnit (s : State) : (resetRegisters s).txUnit = 0 := rfl
@[simp] theorem resetRegisters_params (s : State) : (resetRegisters s).params = s.params := rfl
@[simp] theorem resetRegisters_inputs (s : State) : (resetRegisters s).inputs = s.inputs := rfl

/-! The end of a cycle. -/

@[simp] theorem advance_bound (s : State) : (State.advance s).bound = s.bound := rfl
@[simp] theorem advance_lineId (s : State) : (State.advance s).lineId = s.lineId := rfl
@[simp] theorem advance_profile (s : State) : (State.advance s).profile = s.profile := rfl
@[simp] theorem advance_pulseLen (s : State) : (State.advance s).pulseLen = s.pulseLen := rfl
@[simp] theorem advance_repeatCnt (s : State) : (State.advance s).repeatCnt = s.repeatCnt := rfl
@[simp] theorem advance_lastWord (s : State) : (State.advance s).lastWord = s.lastWord := rfl
@[simp] theorem advance_lastValid (s : State) : (State.advance s).lastValid = s.lastValid := rfl
@[simp] theorem advance_lastResult (s : State) : (State.advance s).lastResult = s.lastResult := rfl
@[simp] theorem advance_busy (s : State) : (State.advance s).busy = s.busy := rfl
@[simp] theorem advance_lineOut (s : State) : (State.advance s).lineOut = s.lineOut := rfl
@[simp] theorem advance_txSegs (s : State) : (State.advance s).txSegs = s.txSegs := rfl
@[simp] theorem advance_txTicks (s : State) : (State.advance s).txTicks = s.txTicks := rfl
@[simp] theorem advance_txUnit (s : State) : (State.advance s).txUnit = s.txUnit := rfl
@[simp] theorem advance_params (s : State) : (State.advance s).params = s.params := rfl
@[simp] theorem advance_inputs (s : State) : (State.advance s).inputs = s.inputs.tail := rfl

/-! Offering a word. -/

@[simp] theorem offerWord_bound (w : CmdWord) (s : State) : (offerWord w s).bound = s.bound := rfl
@[simp] theorem offerWord_lineId (w : CmdWord) (s : State) : (offerWord w s).lineId = s.lineId := rfl
@[simp] theorem offerWord_profile (w : CmdWord) (s : State) : (offerWord w s).profile = s.profile := rfl
@[simp] theorem offerWord_pulseLen (w : CmdWord) (s : State) : (offerWord w s).pulseLen = s.pulseLen := rfl
@[simp] theorem offerWord_repeatCnt (w : CmdWord) (s : State) : (offerWord w s).repeatCnt = s.repeatCnt := rfl
@[simp] theorem offerWord_lastWord (w : CmdWord) (s : State) : (offerWord w s).lastWord = s.lastWord := rfl
@[simp] theorem offerWord_lastValid (w : CmdWord) (s : State) : (offerWord w s).lastValid = s.lastValid := rfl
@[simp] theorem offerWord_lastResult (w : CmdWord) (s : State) : (offerWord w s).lastResult = s.lastResult := rfl
@[simp] theorem offerWord_busy (w : CmdWord) (s : State) : (offerWord w s).busy = false := rfl
@[simp] theorem offerWord_lineOut (w : CmdWord) (s : State) : (offerWord w s).lineOut = false := rfl
@[simp] theorem offerWord_txSegs (w : CmdWord) (s : State) : (offerWord w s).txSegs = [] := rfl
@[simp] theorem offerWord_txTicks (w : CmdWord) (s : State) : (offerWord w s).txTicks = 0 := rfl
@[simp] theorem offerWord_txUnit (w : CmdWord) (s : State) : (offerWord w s).txUnit = s.txUnit := rfl
@[simp] theorem offerWord_params (w : CmdWord) (s : State) : (offerWord w s).params = s.params := rfl
@[simp] theorem offerWord_inputs (w : CmdWord) (s : State) : (offerWord w s).inputs = 
    { rst := false, cmdValid := true, cmdData := w, openOk := s.pins.openOk } :: s.inputs.tail := rfl

/-! What the ports carry. -/

@[simp] theorem pins_offerWord (w : CmdWord) (s : State) : (offerWord w s).pins =
    { rst := false, cmdValid := true, cmdData := w, openOk := s.pins.openOk } := rfl

@[simp] theorem accepts_offerWord (w : CmdWord) (s : State) : (offerWord w s).accepts = true := rfl

@[simp] theorem start_nil (s : State) : start [] s = s := rfl

end Sys2Proof.Machine
end

