-- ==== Sys2Proof/Laws/Ops.lean ====
section
/-! SUPPORT. What the shared operations and the clock edge can do, said once each: later proofs cite these and
unfold nothing. -/

namespace Sys2Proof.Machine

open Sys2Proof

/-- `Transmit(w)` while unbound or with `REPEAT = 0` does nothing (R204). -/
theorem transmit_idle {w : List TriSym} {s : State} (h : s.bound = false ∨ s.repeatCnt = 0#16) :
    transmit w s = s := by
  unfold transmit
  rcases h with h | h <;> simp [h]

/-- `Transmit(w)` while bound with `REPEAT ≠ 0` starts the waveform (R204). -/
theorem transmit_starts {w : List TriSym} {s : State} (hb : s.bound = true) (hr : s.repeatCnt ≠ 0#16) :
    transmit w s = start (waveform w s.profile s.repeatCnt.toNat) s := by
  simp [transmit, hb, hr]

/-- Everything `Transmit(w)` can do. -/
theorem transmit_cases (w : List TriSym) (s : State) :
    (transmit w s = s ∧ (s.bound = false ∨ s.repeatCnt = 0#16)) ∨
    (transmit w s = start (waveform w s.profile s.repeatCnt.toNat) s ∧ s.bound = true ∧ s.repeatCnt ≠ 0#16) := by
  by_cases hb : s.bound = true
  · by_cases hr : s.repeatCnt = 0#16
    · exact .inl ⟨transmit_idle (.inr hr), .inr hr⟩
    · exact .inr ⟨transmit_starts hb hr, hb, hr⟩
  · have hb : s.bound = false := by simpa using hb
    exact .inl ⟨transmit_idle (.inl hb), .inl hb⟩

/-- `Start` and so `Transmit` leave the command registers alone (R205). -/
theorem start_sameCommandRegisters (segs : List Segment) (s : State) : sameCommandRegisters s (start segs s) := by
  cases segs <;> simp [sameCommandRegisters]

theorem transmit_sameCommandRegisters (w : List TriSym) (s : State) : sameCommandRegisters s (transmit w s) := by
  rcases transmit_cases w s with ⟨h, -⟩ | ⟨h, -⟩ <;> rw [h]
  · simp [sameCommandRegisters]
  · exact start_sameCommandRegisters _ _

@[simp] theorem start_inputs (segs : List Segment) (s : State) : (start segs s).inputs = s.inputs := by
  cases segs <;> rfl

@[simp] theorem transmit_inputs (w : List TriSym) (s : State) : (transmit w s).inputs = s.inputs := by
  rcases transmit_cases w s with ⟨h, -⟩ | ⟨h, -⟩ <;> simp [h]

@[simp] theorem latch_inputs (r : EncResult) (s : State) : (latch r s).inputs = s.inputs := by
  cases r <;> rfl

/-- Everything an encode-only command does. -/
theorem encodeOnly_eq (r : EncResult) (s : State) : encodeOnly r s = .next (latch r s) := rfl

/-- Everything a switch command does: the latch, and for a valid word the transmission too. -/
theorem encodeAndSend_cases (r : EncResult) (s : State) :
    (r = .invalid ∧ encodeAndSend r s = .next (latch .invalid s)) ∨
    (∃ w, r = .valid w ∧ encodeAndSend r s = .next (transmit w (latch (.valid w) s))) := by
  cases r with
  | invalid => exact .inl ⟨rfl, rfl⟩
  | valid w => exact .inr ⟨w, rfl, rfl⟩

/-- Everything `SEND_TRISTATE` does. -/
theorem execSendTristate_cases (f : CodeField) (s : State) :
    (unpack f = none ∧ execSendTristate f s = .next (raiseResult .badSymbol s)) ∨
    (∃ w, unpack f = some w ∧ execSendTristate f s = .next (transmit w (finish s))) := by
  unfold execSendTristate
  cases unpack f with
  | none => exact .inl ⟨rfl, rfl⟩
  | some w => exact .inr ⟨w, rfl, rfl⟩

/-- Everything the serializer step can do (R206). -/
theorem serializerStep_cases (s : State) :
    (1 < s.txTicks ∧ serializerStep s = { s with txTicks := s.txTicks - 1 }) ∨
    (s.txTicks ≤ 1 ∧ ∃ g rest, s.txSegs = g :: rest ∧
      serializerStep s = { s with lineOut := g.level, txTicks := g.units * s.txUnit, txSegs := rest }) ∨
    (s.txTicks ≤ 1 ∧ s.txSegs = [] ∧
      serializerStep s = { s with lineOut := false, txTicks := 0, busy := false }) := by
  unfold serializerStep
  by_cases h : 1 < s.txTicks
  · exact .inl ⟨h, by simp [h]⟩
  · refine .inr ?_
    cases hs : s.txSegs with
    | nil => exact .inr ⟨by omega, rfl, by simp [h]⟩
    | cons g rest => exact .inl ⟨by omega, g, rest, rfl, by simp [h]⟩

theorem serializerStep_sameCommandRegisters (s : State) : sameCommandRegisters s (serializerStep s) := by
  rcases serializerStep_cases s with ⟨-, h⟩ | ⟨-, g, rest, -, h⟩ | ⟨-, -, h⟩ <;> rw [h] <;>
    simp [sameCommandRegisters]

/-- A command answers a next state and consumes no input. -/
theorem exec_next (i : Instr) (s : State) : ∃ t, exec i s = .next t ∧ t.inputs = s.inputs ∧ t.params = s.params := by
  have hs : ∀ r : EncResult, ∃ t, encodeAndSend r s = .next t ∧ t.inputs = s.inputs ∧ t.params = s.params := by
    intro r
    rcases encodeAndSend_cases r s with ⟨-, h⟩ | ⟨w, -, h⟩
    · exact ⟨_, h, rfl, rfl⟩
    · exact ⟨_, h, by simp, (transmit_sameCommandRegisters w _).2.2.2.2.2.2.2.2⟩
  have he : ∀ r : EncResult, ∃ t, encodeOnly r s = .next t ∧ t.inputs = s.inputs ∧ t.params = s.params := by
    intro r
    exact ⟨_, rfl, latch_inputs r s, by cases r <;> rfl⟩
  cases i with
  | setProfile n =>
    simp only [exec, execSetProfile]
    split
    · exact ⟨_, rfl, rfl, rfl⟩
    · exact ⟨_, rfl, rfl, rfl⟩
  | setPulseLen us =>
    simp only [exec, execSetPulseLen]
    split
    · exact ⟨_, rfl, rfl, rfl⟩
    · exact ⟨_, rfl, rfl, rfl⟩
  | setRepeat n => exact ⟨_, rfl, rfl, rfl⟩
  | enableTx line =>
    simp only [exec, execEnableTx]
    split
    · exact ⟨_, rfl, rfl, rfl⟩
    · exact ⟨_, rfl, rfl, rfl⟩
  | disableTx => exact ⟨_, rfl, rfl, rfl⟩
  | sendTristate f =>
    rcases execSendTristate_cases f s with ⟨-, h⟩ | ⟨w, -, h⟩
    · exact ⟨_, h, rfl, rfl⟩
    · exact ⟨_, h, by simp, (transmit_sameCommandRegisters w _).2.2.2.2.2.2.2.2⟩
  | swonA d c => exact hs _
  | swoffA d c => exact hs _
  | swonB g c => exact hs _
  | swoffB g c => exact hs _
  | swonC f g d => exact hs _
  | swoffC f g d => exact hs _
  | swonD d c => exact hs _
  | swoffD d c => exact hs _
  | enconA d c => exact he _
  | encoffA d c => exact he _
  | enconB g c => exact he _
  | encoffB g c => exact he _
  | enconC f g d => exact he _
  | encoffC f g d => exact he _
  | enconD d c => exact he _
  | encoffD d c => exact he _

/-- Everything an edge can do, in the order of R256: reset, the serializer step, an accepted command, an accepted
illegal word, nothing. -/
theorem step_cases (s : State) :
    (s.pins.rst = true ∧ step s = .next (resetRegisters s).advance) ∨
    (s.pins.rst = false ∧ s.busy = true ∧ step s = .next (serializerStep s).advance) ∨
    (s.accepts = true ∧ ∃ i t, decode s.pins.cmdData = .ok i ∧ exec i s = .next t ∧ step s = .next t.advance) ∨
    (s.accepts = true ∧ ∃ e, decode s.pins.cmdData = .error e ∧
      step s = .next (raiseResult .illegalCmd s).advance) ∨
    (s.pins.rst = false ∧ s.busy = false ∧ s.accepts = false ∧ step s = .next s.advance) := by
  unfold step clockEdge edgeEffect State.accepts
  cases hr : s.pins.rst with
  | true => simp [advanceOutcome]
  | false =>
    cases hb : s.busy with
    | true => simp [advanceOutcome]
    | false =>
      cases hv : s.pins.cmdValid with
      | false => simp [advanceOutcome]
      | true =>
        cases hd : decode s.pins.cmdData with
        | error e => simp [acceptWord, hd, advanceOutcome]
        | ok i =>
          obtain ⟨t, ht, -, -⟩ := exec_next i s
          simp [acceptWord, hd, ht, advanceOutcome]

end Sys2Proof.Machine
end

