-- ==== Sys2Proof/Laws/Waveform.lean ====
section
/-! SUPPORT. The shape of a waveform (43_transmit.md R200 to R203): its segments one by one, its lengths, and how
it begins. -/

namespace Sys2Proof.Machine

open Sys2Proof

@[simp] theorem symbolSegs_length (p : Profile) (a : TriSym) : (symbolSegs p a).length = 4 := by
  cases p <;> cases a <;> rfl

@[simp] theorem wordSegs_length (p : Profile) (w : List TriSym) : (wordSegs p w).length = 4 * w.length := by
  induction w with
  | nil => rfl
  | cons a w ih => simp only [wordSegs, List.length_append, symbolSegs_length, ih, List.length_cons]; omega

@[simp] theorem passSegs_length (p : Profile) (w : List TriSym) :
    (passSegs p w).length = 4 * w.length + 2 := by
  simp [passSegs, pulseSegs]

@[simp] theorem copies_length (n : Nat) (segs : List Segment) : (copies n segs).length = n * segs.length := by
  induction n with
  | zero => simp [copies]
  | succ n ih => simp only [copies, List.length_append, ih, Nat.succ_mul]; omega

theorem mem_copies {n : Nat} {segs : List Segment} {g : Segment} (h : g ∈ copies n segs) : g ∈ segs := by
  induction n with
  | zero => simp [copies] at h
  | succ n ih =>
    rcases List.mem_append.1 h with h | h
    · exact h
    · exact ih h

theorem symbolSegs_units {p : Profile} {a : TriSym} {g : Segment} (h : g ∈ symbolSegs p a) : 1 ≤ g.units := by
  cases p <;> cases a <;> simp [symbolSegs, pulseSegs, timing] at h <;> rcases h with h | h | h | h <;> simp [h]

theorem wordSegs_units {p : Profile} {w : List TriSym} {g : Segment} (h : g ∈ wordSegs p w) : 1 ≤ g.units := by
  induction w with
  | nil => simp [wordSegs] at h
  | cons a w ih =>
    rcases List.mem_append.1 h with h | h
    · exact symbolSegs_units h
    · exact ih h

/-- Every segment of a waveform has at least one unit. -/
theorem waveform_units {w : List TriSym} {p : Profile} {n : Nat} {g : Segment} (h : g ∈ waveform w p n) :
    1 ≤ g.units := by
  rcases List.mem_append.1 (mem_copies h) with h | h
  · exact wordSegs_units h
  · cases p <;> simp [pulseSegs, timing] at h <;> rcases h with h | h <;> simp [h]

/-- A waveform of a non-empty word with at least one pass begins with a high segment (R205). -/
theorem waveform_begins_high {w : List TriSym} {p : Profile} {n : Nat} (hw : w ≠ []) (hn : n ≠ 0) :
    ∃ h rest, waveform w p n = ⟨true, h⟩ :: rest := by
  obtain ⟨a, w, rfl⟩ := List.exists_cons_of_ne_nil hw
  obtain ⟨k, rfl⟩ := Nat.exists_eq_succ_of_ne_zero hn
  cases a <;> exact ⟨_, _, rfl⟩

@[simp] theorem totalUnits_append (a b : List Segment) : totalUnits (a ++ b) = totalUnits a + totalUnits b := by
  induction a with
  | nil => simp [totalUnits]
  | cons g a ih => simp only [List.cons_append, totalUnits, ih]; omega

@[simp] theorem segLevels_length (unit : Nat) (segs : List Segment) :
    (segLevels unit segs).length = totalUnits segs * unit := by
  induction segs with
  | nil => simp [segLevels, totalUnits]
  | cons g segs ih => simp [segLevels, totalUnits, ih, Nat.add_mul]

end Sys2Proof.Machine
end

