-- ==== Sys2Proof/Laws/Exec.lean ====
section
/-! SUPPORT. What a command does to the serializer, said once: it leaves it alone, or starts the waveform of the
word it sends. With it the facts that make the start meaningful: sent words have 12 symbols and a unit is at least
one tick. -/

namespace Sys2Proof.Machine

open Sys2Proof

/-- A unit lasts at least one tick (R151). -/
theorem unitCyc_pos {p : Params} {us : Half} (hf : 1 ≤ p.fClk) (hu : 1 ≤ us.toNat) : 1 ≤ unitCyc p us := by
  have : 1 ≤ us.toNat * p.fClk := Nat.mul_le_mul hu hf
  unfold unitCyc
  omega

theorem encA_valid_length {p : Params} {d : List Byte} {c : Byte} {on : Bool} {w : List TriSym}
    (h : encA p d c on = .valid w) : w.length = 12 := by
  obtain ⟨t, ht, hc, rfl⟩ := encA_eq_valid_iff.1 h
  simp [dipTransform_length ht, position_length hc]

theorem encB_valid_length {g c : Byte} {on : Bool} {w : List TriSym} (h : encB g c on = .valid w) :
    w.length = 12 := by
  obtain ⟨hg, hc, rfl⟩ := encB_eq_valid_iff.1 h
  simp [nibble_length hg, nibble_length hc]

theorem encC_valid_length {p : Params} {f g d : Byte} {on : Bool} {w : List TriSym}
    (h : encC p f g d on = .valid w) : w.length = 12 := by
  obtain ⟨-, -, -, rfl⟩ := encC_eq_valid_iff.1 h
  simp

theorem encD_valid_length {p : Params} {d : List Byte} {c : Byte} {on : Bool} {w : List TriSym}
    (h : encD p d c on = .valid w) : w.length = 12 := by
  obtain ⟨t, ht, -, rfl⟩ := encD_eq_valid_iff.1 h
  simp [dipTransform_length ht]

theorem word?_eq_some_iff {r : EncResult} {w : List TriSym} : r.word? = some w ↔ r = .valid w := by
  cases r <;> simp [EncResult.word?]

/-- A word that a command hands to the serializer has 12 symbols. -/
theorem sentWord_length {p : Params} {i : Instr} {w : List TriSym} (h : sentWord p i = some w) :
    w.length = 12 := by
  cases i <;> simp only [sentWord, reduceCtorEq, word?_eq_some_iff] at h
  case sendTristate => exact unpack_length h
  case swonA => exact encA_valid_length h
  case swoffA => exact encA_valid_length h
  case swonB => exact encB_valid_length h
  case swoffB => exact encB_valid_length h
  case swonC => exact encC_valid_length h
  case swoffC => exact encC_valid_length h
  case swonD => exact encD_valid_length h
  case swoffD => exact encD_valid_length h

/-- The two states agree on the serializer. -/
def sameSerializer (s t : State) : Prop :=
  t.busy = s.busy ∧ t.lineOut = s.lineOut ∧ t.txSegs = s.txSegs ∧ t.txTicks = s.txTicks ∧ t.txUnit = s.txUnit

/-- `t` is at the first cycle of the waveform of `w`, started in `s` under the configuration of `s` (R205). -/
def startedFrom (w : List TriSym) (s t : State) : Prop :=
  s.bound = true ∧ s.repeatCnt ≠ 0#16 ∧
  ∃ h rest, waveform w s.profile s.repeatCnt.toNat = ⟨true, h⟩ :: rest ∧
    t.busy = true ∧ t.lineOut = true ∧ t.txSegs = rest ∧
    t.txTicks = h * unitCyc s.params s.pulseLen ∧ t.txUnit = unitCyc s.params s.pulseLen ∧
    t.bound = s.bound ∧ t.profile = s.profile ∧ t.pulseLen = s.pulseLen ∧ t.repeatCnt = s.repeatCnt ∧
    t.params = s.params

/-- The two states agree on what `Transmit` reads. -/
def sameConfiguration (s t : State) : Prop :=
  t.bound = s.bound ∧ t.profile = s.profile ∧ t.pulseLen = s.pulseLen ∧ t.repeatCnt = s.repeatCnt ∧
  t.params = s.params

/-- `Transmit(w)` after register writes that touch neither the serializer nor the configuration. -/
theorem transmit_serializer_cases {w : List TriSym} {s u : State} (hw : w.length = 12)
    (hs : sameSerializer s u) (hc : sameConfiguration s u) :
    (sameSerializer s (transmit w u) ∧ (s.bound = false ∨ s.repeatCnt = 0#16)) ∨
    startedFrom w s (transmit w u) := by
  obtain ⟨hb, hp, hl, hr, hpar⟩ := hc
  rcases transmit_cases w u with ⟨e, h⟩ | ⟨e, hbu, hru⟩
  · rw [hb, hr] at h
    exact .inl ⟨by rw [e]; exact hs, h⟩
  · right
    obtain ⟨k, rest, hk⟩ := waveform_begins_high (p := u.profile) (n := u.repeatCnt.toNat) (w := w)
      (by rintro rfl; simp at hw) (fun h0 => hru (BitVec.eq_of_toNat_eq h0))
    rw [e]
    refine ⟨by rw [← hb]; exact hbu, by rw [← hr]; exact hru, k, rest, by rw [← hp, ← hr]; exact hk, ?_⟩
    rw [hk]
    simp [hb, hp, hl, hr, hpar]

/-- Everything a command can do to the serializer: nothing, or start the waveform of the word it sends. -/
theorem exec_serializer_cases {i : Instr} {s t : State} (h : exec i s = .next t) :
    (sameSerializer s t ∧ (sentWord s.params i = none ∨ s.bound = false ∨ s.repeatCnt = 0#16)) ∨
    (∃ w, sentWord s.params i = some w ∧ startedFrom w s t) := by
  have key : ∀ {w : List TriSym} {u : State}, sentWord s.params i = some w → sameSerializer s u →
      sameConfiguration s u → (Host.Outcome.next (transmit w u) : Result) = .next t →
      (sameSerializer s t ∧ (sentWord s.params i = none ∨ s.bound = false ∨ s.repeatCnt = 0#16)) ∨
      (∃ w, sentWord s.params i = some w ∧ startedFrom w s t) := by
    intro w u hw hs hc ht
    cases ht
    rcases transmit_serializer_cases (sentWord_length hw) hs hc with ⟨h1, h2⟩ | h1
    · exact .inl ⟨h1, .inr h2⟩
    · exact .inr ⟨w, hw, h1⟩
  have quiet : sentWord s.params i = none → sameSerializer s t →
      (sameSerializer s t ∧ (sentWord s.params i = none ∨ s.bound = false ∨ s.repeatCnt = 0#16)) ∨
      (∃ w, sentWord s.params i = some w ∧ startedFrom w s t) := fun hn hs => .inl ⟨hs, .inl hn⟩
  have onlyLatch : ∀ {r : EncResult}, encodeOnly r s = .next t → sameSerializer s t := by
    intro r hr
    cases hr
    cases r <;> simp [sameSerializer]
  have latchAndSend : ∀ {r : EncResult}, sentWord s.params i = r.word? → encodeAndSend r s = .next t →
      (sameSerializer s t ∧ (sentWord s.params i = none ∨ s.bound = false ∨ s.repeatCnt = 0#16)) ∨
      (∃ w, sentWord s.params i = some w ∧ startedFrom w s t) := by
    intro r hw hr
    rcases encodeAndSend_cases r s with ⟨rfl, e⟩ | ⟨w, rfl, e⟩ <;> rw [e] at hr
    · cases hr
      exact quiet hw (by simp [sameSerializer])
    · exact key hw (by simp [sameSerializer]) (by simp [sameConfiguration]) hr
  cases i with
  | setProfile n =>
    simp only [exec, execSetProfile] at h
    split at h <;> cases h <;> exact quiet rfl (by simp [sameSerializer])
  | setPulseLen us =>
    simp only [exec, execSetPulseLen] at h
    split at h <;> cases h <;> exact quiet rfl (by simp [sameSerializer])
  | setRepeat n => cases h; exact quiet rfl (by simp [sameSerializer])
  | enableTx line =>
    simp only [exec, execEnableTx] at h
    split at h <;> cases h <;> exact quiet rfl (by simp [sameSerializer])
  | disableTx => cases h; exact quiet rfl (by simp [sameSerializer])
  | sendTristate f =>
    rcases execSendTristate_cases f s with ⟨hn, e⟩ | ⟨w, hw, e⟩ <;> rw [exec, e] at h
    · cases h; exact quiet hn (by simp [sameSerializer])
    · exact key hw (by simp [sameSerializer]) (by simp [sameConfiguration]) h
  | swonA d c => exact latchAndSend rfl h
  | swoffA d c => exact latchAndSend rfl h
  | swonB g c => exact latchAndSend rfl h
  | swoffB g c => exact latchAndSend rfl h
  | swonC f g d => exact latchAndSend rfl h
  | swoffC f g d => exact latchAndSend rfl h
  | swonD d c => exact latchAndSend rfl h
  | swoffD d c => exact latchAndSend rfl h
  | enconA d c => exact quiet rfl (onlyLatch h)
  | encoffA d c => exact quiet rfl (onlyLatch h)
  | enconB g c => exact quiet rfl (onlyLatch h)
  | encoffB g c => exact quiet rfl (onlyLatch h)
  | enconC f g d => exact quiet rfl (onlyLatch h)
  | encoffC f g d => exact quiet rfl (onlyLatch h)
  | enconD d c => exact quiet rfl (onlyLatch h)
  | encoffD d c => exact quiet rfl (onlyLatch h)

end Sys2Proof.Machine
end

