-- ==== Sys2Proof/Laws/PerInstr.lean ====
section
/-! SUPPORT. Facts that hold of every command, one lemma per constructor. -/

namespace Sys2Proof.Laws.EncodedWord

open Sys2Proof

/-- A command's word carries its opcode in bits 7:0, and a well-formed command's operand bytes fill exactly the
bits its format uses (R76, R77). -/
def Statement (i : Instr) : Prop :=
  field8 (encode i) 0 = i.opcode.byte ∧
  (i.wf = true → 8 * (1 + i.operandBytes.length) = i.opcode.format.usedBits)

theorem adBytes_fill {dip : List Byte} {chan : Byte} (h : dip.length = 5) :
    8 * (1 + (dip ++ [chan]).length) = 56 := by
  simp [h]

theorem setProfile (n : Byte) : Statement (.setProfile n) := ⟨field8_encode _, fun _ => rfl⟩

theorem setPulseLen (us : Half) : Statement (.setPulseLen us) := ⟨field8_encode _, fun _ => rfl⟩

theorem setRepeat (n : Half) : Statement (.setRepeat n) := ⟨field8_encode _, fun _ => rfl⟩

theorem enableTx (line : Byte) : Statement (.enableTx line) := ⟨field8_encode _, fun _ => rfl⟩

theorem disableTx : Statement (.disableTx) := ⟨field8_encode _, fun _ => rfl⟩

theorem sendTristate (word : CodeField) : Statement (.sendTristate word) := ⟨field8_encode _, fun _ => rfl⟩

theorem swonA (dip : List Byte) (chan : Byte) : Statement (.swonA dip chan) := ⟨field8_encode _, fun h => adBytes_fill (beq_iff_eq.1 h)⟩

theorem swoffA (dip : List Byte) (chan : Byte) : Statement (.swoffA dip chan) := ⟨field8_encode _, fun h => adBytes_fill (beq_iff_eq.1 h)⟩

theorem swonB (group chan : Byte) : Statement (.swonB group chan) := ⟨field8_encode _, fun _ => rfl⟩

theorem swoffB (group chan : Byte) : Statement (.swoffB group chan) := ⟨field8_encode _, fun _ => rfl⟩

theorem swonC (family group dev : Byte) : Statement (.swonC family group dev) := ⟨field8_encode _, fun _ => rfl⟩

theorem swoffC (family group dev : Byte) : Statement (.swoffC family group dev) := ⟨field8_encode _, fun _ => rfl⟩

theorem swonD (dip : List Byte) (chan : Byte) : Statement (.swonD dip chan) := ⟨field8_encode _, fun h => adBytes_fill (beq_iff_eq.1 h)⟩

theorem swoffD (dip : List Byte) (chan : Byte) : Statement (.swoffD dip chan) := ⟨field8_encode _, fun h => adBytes_fill (beq_iff_eq.1 h)⟩

theorem enconA (dip : List Byte) (chan : Byte) : Statement (.enconA dip chan) := ⟨field8_encode _, fun h => adBytes_fill (beq_iff_eq.1 h)⟩

theorem encoffA (dip : List Byte) (chan : Byte) : Statement (.encoffA dip chan) := ⟨field8_encode _, fun h => adBytes_fill (beq_iff_eq.1 h)⟩

theorem enconB (group chan : Byte) : Statement (.enconB group chan) := ⟨field8_encode _, fun _ => rfl⟩

theorem encoffB (group chan : Byte) : Statement (.encoffB group chan) := ⟨field8_encode _, fun _ => rfl⟩

theorem enconC (family group dev : Byte) : Statement (.enconC family group dev) := ⟨field8_encode _, fun _ => rfl⟩

theorem encoffC (family group dev : Byte) : Statement (.encoffC family group dev) := ⟨field8_encode _, fun _ => rfl⟩

theorem enconD (dip : List Byte) (chan : Byte) : Statement (.enconD dip chan) := ⟨field8_encode _, fun h => adBytes_fill (beq_iff_eq.1 h)⟩

theorem encoffD (dip : List Byte) (chan : Byte) : Statement (.encoffD dip chan) := ⟨field8_encode _, fun h => adBytes_fill (beq_iff_eq.1 h)⟩

end Sys2Proof.Laws.EncodedWord
end

