-- ==== Sys2Proof/Tests/Slice0.lean ====
section
/-! SUPPORT. Tests against the words and values of spec/ (30_encoding.md R84; 95_test_vectors.md, whose vector is
named at each test), and the witnesses: for every statement with hypotheses, a state and operands that meet them. -/

namespace Sys2Proof.Tests

open Sys2Proof Sys2Proof.Machine

/-! ## Helpers -/

/-- The state after the edge that accepts a word. -/
def after (w : CmdWord) (s : State) : Option State :=
  match step (offerWord w s) with
  | .next t => some t
  | .fault _ => none
  | .refused _ => none

/-- What an encode-only vector looks at: `STATUS` and `LAST_WORD`. -/
def latched (w : CmdWord) (s : State) : Option (BitVec 32 × CodeField) :=
  (after w s).map fun t => (t.status, t.lastWord)

/-- What a configuration vector looks at: `STATUS`, `PULSE_LEN`, `REPEAT`, `LINE_ID`. -/
def configured (w : CmdWord) (s : State) : Option (BitVec 32 × Half × Half × Byte) :=
  (after w s).map fun t => (t.status, t.pulseLen, t.repeatCnt, t.lineId)

/-- What a transmitting vector looks at: `STATUS`, `LAST_WORD`, `LINE_OUT`, `TX_TICKS`, and the next two
segments. -/
def sending (w : CmdWord) (s : State) : Option (BitVec 32 × CodeField × Bool × Nat × List Segment) :=
  (after w s).map fun t => (t.status, t.lastWord, t.lineOut, t.txTicks, t.txSegs.take 2)

/-- Reset with `DIP_ACCEPT_F = true`. -/
def permissive : State := { State.reset with params := { Params.default with dipAcceptF := true } }

/-- Bound to line 17 with one pass of 1-cycle units, profile 1: program 1 before its edge 3. -/
def ready : State := { State.reset with bound := true, lineId := 17#8, pulseLen := 1#16, repeatCnt := 1#16 }

/-! ## Well-formedness -/

/-- A DIP string of four characters is refused, for each command that has one. -/
theorem test_wf_refuses_a_short_dip :
    ([Instr.swonA [0x31#8, 0x30#8, 0x30#8, 0x30#8] 1#8, .swoffA [0x31#8, 0x30#8, 0x30#8, 0x30#8] 1#8,
      .swonD [0x31#8, 0x30#8, 0x30#8, 0x30#8] 1#8, .swoffD [0x31#8, 0x30#8, 0x30#8, 0x30#8] 1#8,
      .enconA [0x31#8, 0x30#8, 0x30#8, 0x30#8] 1#8, .encoffA [0x31#8, 0x30#8, 0x30#8, 0x30#8] 1#8,
      .enconD [0x31#8, 0x30#8, 0x30#8, 0x30#8] 1#8, .encoffD [0x31#8, 0x30#8, 0x30#8, 0x30#8] 1#8].any
        Instr.wf) = false := by decide

/-- So is one of six, and the empty one. -/
theorem test_wf_refuses_a_long_or_empty_dip :
    Instr.wf (.swonA (List.replicate 6 0x30#8) 1#8) = false ∧ Instr.wf (.enconD [] 1#8) = false ∧
    Instr.wf (.enconD (List.replicate 5 0x30#8) 0#8) = true := by decide

/-! ## Decoding: words from the spec -/

theorem test_decode_set_profile : decodeTableWord 16 0x0201 = some (.setProfile 2#8) := by decide
theorem test_decode_set_pulse_len : decodeTableWord 24 0x015E02 = some (.setPulseLen 350#16) := by decide
theorem test_decode_set_repeat : decodeTableWord 24 0x000A03 = some (.setRepeat 10#16) := by decide
/-- X16. -/
theorem test_decode_enable_tx : decodeTableWord 16 0x1104 = some (.enableTx 17#8) := by decide
theorem test_decode_disable_tx : decodeTableWord 8 0x05 = some .disableTx := by decide
theorem test_decode_send_tristate : decodeTableWord 32 0xAA8AA206 = some (.sendTristate 0xAA8AA2#24) := by decide

/-- R84: `SWON_A "10000", 1`; character 0 lowest. -/
theorem test_decode_swon_a : decodeTableWord 64 0x0001303030303111 =
    some (.swonA [0x31#8, 0x30#8, 0x30#8, 0x30#8, 0x30#8] 1#8) := by decide
theorem test_decode_swoff_a : decodeTableWord 64 0x0005303130313010 =
    some (.swoffA [0x30#8, 0x31#8, 0x30#8, 0x31#8, 0x30#8] 5#8) := by decide
/-- R84: `SWON_B 2, 3`; the group lower. -/
theorem test_decode_swon_b : decodeTableWord 24 0x030213 = some (.swonB 2#8 3#8) := by decide
theorem test_decode_swoff_b : decodeTableWord 24 0x030212 = some (.swoffB 2#8 3#8) := by decide
/-- Family, then group, then device, from the low end: `'a'`, 2, 1. -/
theorem test_decode_swon_c : decodeTableWord 32 0x01026115 = some (.swonC 0x61#8 2#8 1#8) := by decide
theorem test_decode_swoff_c : decodeTableWord 32 0x01026114 = some (.swoffC 0x61#8 2#8 1#8) := by decide
/-- Program 4. -/
theorem test_decode_swon_d : decodeTableWord 64 0x0011303030303117 =
    some (.swonD [0x31#8, 0x30#8, 0x30#8, 0x30#8, 0x30#8] 17#8) := by decide
theorem test_decode_swoff_d : decodeTableWord 64 0x0011303030303116 =
    some (.swoffD [0x31#8, 0x30#8, 0x30#8, 0x30#8, 0x30#8] 17#8) := by decide
/-- E10. -/
theorem test_decode_encon_a : decodeTableWord 64 0x0003303130313021 =
    some (.enconA [0x30#8, 0x31#8, 0x30#8, 0x31#8, 0x30#8] 3#8) := by decide
/-- S14. -/
theorem test_decode_encoff_a : decodeTableWord 64 0x0001303030303120 =
    some (.encoffA [0x31#8, 0x30#8, 0x30#8, 0x30#8, 0x30#8] 1#8) := by decide
/-- E4. -/
theorem test_decode_encon_b : decodeTableWord 24 0x040123 = some (.enconB 1#8 4#8) := by decide
theorem test_decode_encoff_b : decodeTableWord 24 0x030222 = some (.encoffB 2#8 3#8) := by decide
/-- E23, E24. -/
theorem test_decode_encon_c : decodeTableWord 32 0x02016125 = some (.enconC 0x61#8 1#8 2#8) := by decide
theorem test_decode_encoff_c : decodeTableWord 32 0x01026124 = some (.encoffC 0x61#8 2#8 1#8) := by decide
/-- E15, E16. -/
theorem test_decode_encon_d : decodeTableWord 64 0x0011303030303127 =
    some (.enconD [0x31#8, 0x30#8, 0x30#8, 0x30#8, 0x30#8] 17#8) := by decide
theorem test_decode_encoff_d : decodeTableWord 64 0x0011303030303126 =
    some (.encoffD [0x31#8, 0x30#8, 0x30#8, 0x30#8, 0x30#8] 17#8) := by decide

/-- X1 to X7: unassigned opcodes. -/
theorem test_decode_refuses_unassigned_opcodes :
    ([0x00#64, 0x07#64, 0x0F#64, 0x18#64, 0x28#64, 0x30#64, 0xFF#64].map fun w => decodeTableWord 64 w.toNat) =
      List.replicate 7 none := by decide

/-- X8 to X15: a reserved bit is 1. -/
theorem test_decode_refuses_reserved_bits :
    ([0x0000000000010201#64, 0x0000000000000105#64, 0x0000000001000103#64, 0x0101303030303121#64,
      0x0000000001030223#64, 0x0000000101016125#64, 0x0000000100000006#64, 0x8000000000000001#64].map
        fun w => decodeTableWord 64 w.toNat) = List.replicate 8 none := by decide

/-- X15, and the note of section 2.2: bound to line 17, `STATUS` is 0x00000606 afterwards. -/
theorem test_illegal_word_wins_over_bad_profile :
    (after 0x8000000000000001#64 { State.reset with bound := true, lineId := 17#8 }).map State.status =
      some 0x00000606#32 := by decide

/-! ## The commands, one edge each -/

/-- K1. -/
theorem test_set_profile_2 : configured 0x0201#64 State.reset = some (0x8#32, 650#16, 10#16, 0#8) := by decide
/-- K4. -/
theorem test_set_profile_3 : configured 0x0301#64 State.reset = some (0x204#32, 350#16, 10#16, 0#8) := by decide
/-- K6. -/
theorem test_set_pulse_len_500 : configured 0x01F402#64 State.reset = some (0x4#32, 500#16, 10#16, 0#8) := by decide
/-- K7. -/
theorem test_set_pulse_len_0 : configured 0x02#64 State.reset = some (0x304#32, 350#16, 10#16, 0#8) := by decide
/-- K10. -/
theorem test_set_repeat_0 : configured 0x03#64 State.reset = some (0x4#32, 350#16, 0#16, 0#8) := by decide
/-- K11. -/
theorem test_set_repeat_65535 : configured 0xFFFF03#64 State.reset = some (0x4#32, 350#16, 65535#16, 0#8) := by decide
/-- K12. -/
theorem test_enable_tx_17 : configured 0x1104#64 State.reset = some (0x6#32, 350#16, 10#16, 17#8) := by decide
/-- K14: a failed open unbinds. -/
theorem test_enable_tx_open_fails :
    configured 0x0504#64 { State.reset with bound := true, lineId := 17#8, inputs := [⟨false, false, 0#64, false⟩] } =
      some (0x504#32, 350#16, 10#16, 5#8) := by decide
/-- K15: `LINE_ID` is kept. -/
theorem test_disable_tx :
    configured 0x05#64 { State.reset with bound := true, lineId := 17#8 } = some (0x4#32, 350#16, 10#16, 17#8) := by
  decide

/-- W22 with program 1's configuration: symbol `0` first (W1), `LAST_WORD` as it was. -/
theorem test_send_tristate_starts : sending 0x06#64 ready =
    some (0x7#32, 0xFFFFFF#24, true, 1, [⟨false, 3⟩, ⟨true, 1⟩]) := by decide
/-- W21: the symbol check comes before the bound check. -/
theorem test_send_tristate_bad_symbol : sending 0x0306#64 State.reset =
    some (0x404#32, 0xFFFFFF#24, false, 0, []) := by decide

/-- Program 3, edge 0: unbound, nothing is sent. -/
theorem test_swon_a_unbound : sending 0x0001303030303111#64 State.reset =
    some (0x14#32, 0x8AA2A8#24, false, 0, []) := by decide
/-- E8's word, sent: its first symbol is `0`. -/
theorem test_swon_a_starts : sending 0x0005313131313111#64 ready =
    some (0x17#32, 0x82A800#24, true, 1, [⟨false, 3⟩, ⟨true, 1⟩]) := by decide
/-- E9's word, sent: its first symbol is `F`. -/
theorem test_swoff_a_starts : sending 0x0005303030303010#64 ready =
    some (0x17#32, 0x22AAAA#24, true, 1, [⟨false, 3⟩, ⟨true, 3⟩]) := by decide
/-- S6's operands: an invalid address sends nothing, bound or not. -/
theorem test_swoff_a_invalid : sending 0x0001323030303110#64 ready =
    some (0x106#32, 0xFFFFFF#24, false, 0, []) := by decide
/-- Program 1, edge 3. -/
theorem test_swon_b_starts : sending 0x030213#64 ready =
    some (0x17#32, 0xAA8AA2#24, true, 1, [⟨false, 3⟩, ⟨true, 3⟩]) := by decide
/-- Program 3, edge 6: `REPEAT = 0`. -/
theorem test_swon_b_repeat_0 : sending 0x010113#64 { ready with repeatCnt := 0#16 } =
    some (0x16#32, 0xAAA8A8#24, false, 0, []) := by decide
/-- E3's word, sent. -/
theorem test_swoff_b_starts : sending 0x040412#64 ready =
    some (0x17#32, 0x2A2A2A#24, true, 1, [⟨false, 3⟩, ⟨true, 3⟩]) := by decide
/-- W18's operands. -/
theorem test_swoff_b_invalid : sending 0x010012#64 ready = some (0x106#32, 0xFFFFFF#24, false, 0, []) := by decide
/-- S7's word, sent. -/
theorem test_swon_c_starts : sending 0x01016115#64 ready =
    some (0x17#32, 0xA80000#24, true, 1, [⟨false, 3⟩, ⟨true, 1⟩]) := by decide
/-- Program 3, edge 2. -/
theorem test_swon_c_invalid : sending 0x01017115#64 State.reset =
    some (0x104#32, 0xFFFFFF#24, false, 0, []) := by decide
/-- E26's word, sent. -/
theorem test_swoff_c_starts : sending 0x04046114#64 ready =
    some (0x17#32, 0x28AA00#24, true, 1, [⟨false, 3⟩, ⟨true, 1⟩]) := by decide
/-- Program 4, edge 5: profile 2 (W5). -/
theorem test_swon_d_starts : sending 0x0011303030303117#64 { ready with profile := .p2 } =
    some (0x1B#32, 0x82A2A8#24, true, 1, [⟨false, 2⟩, ⟨true, 1⟩]) := by decide
/-- Program 4, edge 89. -/
theorem test_swoff_d_starts : sending 0x0011303030303116#64 { ready with profile := .p2 } =
    some (0x1B#32, 0x22A2A8#24, true, 1, [⟨false, 2⟩, ⟨true, 1⟩]) := by decide

/-- E10. -/
theorem test_encon_a_mixed : latched 0x0003303130313021#64 State.reset = some (0x14#32, 0x8A2A22#24) := by decide
/-- E12, E13, E14: a stray `F` under both settings, and `f`. -/
theorem test_encon_a_stray_f :
    latched 0x0001463030303121#64 State.reset = some (0x104#32, 0xFFFFFF#24) ∧
    latched 0x0001463030303121#64 permissive = some (0x14#32, 0x8AA2A8#24) ∧
    latched 0x0001663030303121#64 permissive = some (0x104#32, 0xFFFFFF#24) := by decide
/-- E9. -/
theorem test_encoff_a : latched 0x0005303030303020#64 State.reset = some (0x14#32, 0x22AAAA#24) := by decide
/-- E11 with `ENCOFF_A`. -/
theorem test_encoff_a_channel_0 : latched 0x0000303030303120#64 State.reset = some (0x104#32, 0xFFFFFF#24) := by
  decide
/-- S1, E4. -/
theorem test_encon_b :
    latched 0x030223#64 State.reset = some (0x14#32, 0xAA8AA2#24) ∧
    latched 0x040123#64 State.reset = some (0x14#32, 0xAA2AA8#24) := by decide
/-- S2, S3, E6, and E36: an invalid result overwrites a valid word. -/
theorem test_encon_b_invalid :
    latched 0x010023#64 State.reset = some (0x104#32, 0xFFFFFF#24) ∧
    latched 0x010523#64 State.reset = some (0x104#32, 0xFFFFFF#24) ∧
    latched 0x050423#64 { State.reset with lastWord := 0xAA8AA2#24, lastValid := true } =
      some (0x104#32, 0xFFFFFF#24) := by decide
/-- S13. -/
theorem test_encoff_b : latched 0x030222#64 State.reset = some (0x14#32, 0x2A8AA2#24) := by decide
/-- E23, E24, E27, E28 (the last two from the default table). -/
theorem test_encon_c :
    latched 0x02016125#64 State.reset = some (0x14#32, 0xA88000#24) ∧
    latched 0x01026125#64 State.reset = some (0x14#32, 0xA80800#24) ∧
    latched 0x01017025#64 State.reset = some (0x14#32, 0xA800AA#24) ∧
    latched 0x01016225#64 State.reset = some (0x14#32, 0xA80002#24) := by decide
/-- S8, E29, E30, E33. -/
theorem test_encon_c_invalid :
    latched 0x01017125#64 State.reset = some (0x104#32, 0xFFFFFF#24) ∧
    latched 0x01014125#64 State.reset = some (0x104#32, 0xFFFFFF#24) ∧
    latched 0x01016025#64 State.reset = some (0x104#32, 0xFFFFFF#24) ∧
    latched 0x05016125#64 State.reset = some (0x104#32, 0xFFFFFF#24) := by decide
/-- E26. -/
theorem test_encoff_c : latched 0x04046124#64 State.reset = some (0x14#32, 0x28AA00#24) := by decide
/-- E15, E18. -/
theorem test_encon_d :
    latched 0x0011303030303127#64 State.reset = some (0x14#32, 0x82A2A8#24) ∧
    latched 0x001F313131313127#64 State.reset = some (0x14#32, 0x800000#24) := by decide
/-- E20, E22. -/
theorem test_encon_d_bounds :
    latched 0x0020303030303127#64 State.reset = some (0x104#32, 0xFFFFFF#24) ∧
    latched 0x0001463030303127#64 permissive = some (0x14#32, 0x82AAA8#24) := by decide
/-- E16. -/
theorem test_encoff_d : latched 0x0011303030303126#64 State.reset = some (0x14#32, 0x22A2A8#24) := by decide

/-! ## The edge, time and the waveform -/

/-- V1. -/
theorem test_reset_ports : State.reset.ports =
    { cmdReady := true, lineOut := false, lineOe := false, lineSel := 0#8, status := 0x4#32,
      cfgPulseLen := 350#16, cfgRepeat := 10#16, lastWord := 0xFFFFFF#24 } := by decide

/-- T5 to T9: rounded up, never 0. -/
theorem test_unit_cyc :
    unitCyc { Params.default with fClk := 32768 } 350#16 = 12 ∧
    unitCyc { Params.default with fClk := 32768 } 650#16 = 22 ∧
    unitCyc { Params.default with fClk := 32768 } 1#16 = 1 ∧
    unitCyc { Params.default with fClk := 2500000 } 3#16 = 8 ∧
    unitCyc { Params.default with fClk := 1500000 } 1#16 = 2 := by decide

/-- W4, W8: the sync pulse ends the pass. -/
theorem test_sync_pulse :
    (passSegs .p1 (List.replicate 12 .s0)).drop 48 = [⟨true, 1⟩, ⟨false, 31⟩] ∧
    (passSegs .p2 (List.replicate 12 .sF)).drop 48 = [⟨true, 1⟩, ⟨false, 10⟩] := by decide

/-- W9, W10: the units of a pass. -/
theorem test_pass_units :
    totalUnits (passSegs .p1 (List.replicate 12 .s1)) = 128 ∧
    totalUnits (passSegs .p2 (List.replicate 12 .sF)) = 83 := by decide

/-- R82: hexadecimal numbers, `\xNN`, the reserved symbol `X`, a numeric family; and what does not fit (R83). -/
theorem test_assembler :
    assembleLine "SET_PULSE_LEN 0x01F4".toList = some (.setPulseLen 500#16) ∧
    assembleLine "SEND_TRISTATE \"XXXXXXXXXXXX\"".toList = some (.sendTristate 0xFFFFFF#24) ∧
    assembleLine "ENCON_A \"1000\\x66\", 1".toList =
      some (.enconA [0x31#8, 0x30#8, 0x30#8, 0x30#8, 0x66#8] 1#8) ∧
    assembleLine "ENCON_C 0x60, 1, 1".toList = some (.enconC 0x60#8 1#8 1#8) := by decide

/-- R83: a short DIP string, an integer above 255 or above 65535, a negative integer. -/
theorem test_assembler_refuses :
    assembleLine "SWON_A \"1000\", 1".toList = none ∧ assembleLine "SWON_B 256, 1".toList = none ∧
    assembleLine "SET_REPEAT 65536".toList = none ∧ assembleLine "SET_PROFILE -1".toList = none := by decide

/-! ## Witnesses: the hypotheses of each statement are met together -/

/-- Twelve symbols `0`. -/
def zeros : List TriSym := List.replicate 12 .s0

/-- The first cycle of one pass of `zeros`, profile 1, 1-cycle units. -/
def inPass : State :=
  { ready with busy := true, lineOut := true, txTicks := 1, txUnit := 1, txSegs := (waveform zeros .p1 1).tail }

/-- The last cycle of that pass. -/
def lastCycle : State := { ready with busy := true, txTicks := 1, txUnit := 1 }

/-- The same, in the last cycle but one. -/
def lastButOne : State := { lastCycle with txTicks := 2 }

/-- A unit with `rst` high in this cycle and a command offered too (V3). -/
def resetting (s : State) : State := { s with inputs := [⟨true, true, 0x0201#64, true⟩] }

theorem inPass_inv : inPass.Inv where
  clock := by decide
  profileLegal := by decide
  pulseLegal := by decide
  resultLegal := by decide
  wordInvalid := by decide
  wordValid := by decide
  idleClear := by decide
  busyBound := by decide
  segsLegal := by decide

theorem lastCycle_inv : lastCycle.Inv where
  clock := by decide
  profileLegal := by decide
  pulseLegal := by decide
  resultLegal := by decide
  wordInvalid := by decide
  wordValid := by decide
  idleClear := by decide
  busyBound := by decide
  segsLegal := by decide

theorem inPass_txInv : inPass.TxInv := fun _ =>
  ⟨zeros, by decide, by decide, [], ⟨true, 1⟩, by decide, by decide, by decide, by decide⟩

theorem ready_inv (xs : List PortIn) : State.Inv { ready with inputs := xs } where
  clock := by show 1 ≤ ready.params.fClk; decide
  profileLegal := .inl rfl
  pulseLegal := by show 1 ≤ ready.pulseLen.toNat ∧ ready.pulseLen.toNat ≤ 65535; decide
  resultLegal := by show ready.lastResult.code.toNat ≤ 6; decide
  wordInvalid := fun _ => rfl
  wordValid := fun h => by cases h
  idleClear := fun _ => ⟨rfl, rfl, rfl⟩
  busyBound := fun h => by cases h
  segsLegal := by show ∀ g ∈ ready.txSegs, 1 ≤ g.units; decide

theorem witness_reset_edge : (resetting inPass).pins.rst = true ∧ inPass.busy = true ∧
    (resetting inPass).pins.cmdValid = true := by decide

theorem witness_parameters : 1 ≤ Params.fClk { Params.default with fClk := 1 } := by decide

theorem witness_invariant_edges :
    (inPass.Inv ∧ inPass.TxInv ∧ ∃ t, step inPass = .next t) ∧
    (State.Inv (offerWord 0x06#64 ready) ∧ ∃ t, step (offerWord 0x06#64 ready) = .next t ∧ t.busy = true) :=
  ⟨⟨inPass_inv, inPass_txInv, _, rfl⟩, ready_inv _, _, rfl, rfl⟩

/-- One word being sent: the first cycle, after which `BUSY` stays, and the last, after which it falls. -/
theorem witness_word_being_sent :
    (inPass.Inv ∧ inPass.sending zeros ∧ inPass.busy = true ∧ inPass.pins.rst = false ∧
      ∃ t, step inPass = .next t ∧ t.busy = true) ∧
    (lastCycle.Inv ∧ lastCycle.sending zeros ∧ lastCycle.busy = true ∧ lastCycle.pins.rst = false ∧
      ∃ t, step lastCycle = .next t ∧ t.busy = false) :=
  ⟨⟨inPass_inv, ⟨by decide, by decide, [], ⟨true, 1⟩, by decide, by decide, by decide, by decide⟩,
      rfl, rfl, _, rfl, rfl⟩,
    lastCycle_inv, ⟨by decide, by decide, (waveform zeros .p1 1).take 49, ⟨false, 31⟩, by decide, by decide,
      by decide, by decide⟩, rfl, rfl, _, rfl, rfl⟩

theorem witness_edge_runs_a_command : ∃ t,
    (offerWord 0x0A03#64 ready).pins.cmdValid = true ∧ (offerWord 0x0A03#64 ready).busy = false ∧
    (offerWord 0x0A03#64 ready).pins.rst = false ∧
    decode (offerWord 0x0A03#64 ready).pins.cmdData = .ok (.setRepeat 10#16) ∧
    exec (.setRepeat 10#16) (offerWord 0x0A03#64 ready) = .next t := ⟨_, rfl, rfl, rfl, rfl, rfl⟩

theorem witness_placed_word :
    decode (BitVec.ofNat 64 (0x0205 % 2 ^ 8)) = .ok .disableTx ∧
    decode (BitVec.ofNat 64 (0x0011303030303117 % 2 ^ 64)) =
      .ok (.swonD [0x31#8, 0x30#8, 0x30#8, 0x30#8, 0x30#8] 17#8) := ⟨rfl, rfl⟩

theorem witness_reset_wins : PortIn.rst ⟨true, true, 5#64, true⟩ = true ∧ PortIn.rst ⟨true, false, 0#64, false⟩ = true ∧
    inPass.busy = true ∧ PortIn.rst ⟨false, true, 5#64, true⟩ = false ∧ PortIn.idle.rst = false := by decide

theorem witness_disturbed_transmission : ∃ t,
    State.busy { inPass with inputs := [⟨false, true, 5#64, true⟩] } = true ∧
    (State.pins { inPass with inputs := [⟨false, true, 5#64, true⟩] }).rst = false ∧
    step { inPass with inputs := [⟨false, true, 5#64, true⟩] } = .next t := ⟨_, rfl, rfl, rfl⟩

theorem witness_serializer_step :
    (lastButOne.busy = true ∧ 1 < lastButOne.txTicks ∧ lastButOne.pins.rst = false) ∧
    (inPass.busy = true ∧ inPass.txTicks ≤ 1 ∧ ∃ rest, inPass.txSegs = ⟨false, 3⟩ :: rest) ∧
    (lastCycle.busy = true ∧ lastCycle.txTicks ≤ 1 ∧ lastCycle.txSegs = []) ∧
    (ready.busy = false ∧ ready.accepts = false ∧ ready.pins.rst = false) :=
  ⟨by decide, ⟨rfl, by decide, _, rfl⟩, by decide, by decide⟩

theorem witness_decode_rows :
    (∃ r ∈ opcodeTable, r.covers 0x00FFFFFFFFFFFF21#64 ∧ r.op = .enconA) ∧
    decode 0x00FFFFFFFFFFFF21#64 = .ok (.enconA (List.replicate 5 0xFF#8) 0xFF#8) ∧
    (∀ r ∈ opcodeTable, ¬ r.covers 0x0100000000000021#64) := ⟨by decide, rfl, by decide⟩

theorem witness_well_formed : Instr.wf (.swoffD (List.replicate 5 0xFF#8) 0xFF#8) = true ∧
    Instr.wf (.sendTristate 0xFFFFFF#24) = true := by decide

theorem witness_illegal_words :
    (offerWord 0x28#64 ready).accepts = true ∧
    decode (offerWord 0x28#64 ready).pins.cmdData = .error .unassignedOpcode ∧
    decode (offerWord 0x0100000000000027#64 ready).pins.cmdData = .error .reservedBits := ⟨rfl, rfl, rfl⟩

theorem witness_code_words : zeros.length = 12 ∧ wellFormedField 0xAAAAAA#24 = true ∧
    wellFormedField 0x000003#24 = false ∧ wellFormedField 0xC00000#24 = false ∧
    symField 0x000003#24 0 = 3#2 ∧ symField 0xC00000#24 11 = 3#2 := by decide

theorem witness_invalid_pattern :
    encoderResult Params.default (.enconB 1#8 4#8) =
      some (.valid [.s0, .sF, .sF, .sF, .sF, .sF, .sF, .s0, .sF, .sF, .sF, .sF]) ∧
    encoderResult Params.default (.swoffB 1#8 5#8) = some .invalid := by decide

theorem witness_bin_ranges : inRange 1#8 1 4 ∧ inRange 4#8 1 4 ∧ inRange 1#8 1 31 ∧ inRange 31#8 1 31 := by decide

theorem witness_dip : dipTransform true [0x46#8, 0x30#8, 0x31#8, 0x30#8, 0x46#8] = some [.sF, .sF, .s0, .sF, .sF] ∧
    dipTransform false [0x30#8, 0x30#8, 0x30#8, 0x30#8, 0x46#8] = none ∧
    dipTransform true [0x30#8, 0x30#8, 0x30#8, 0x30#8, 0x66#8] = none := by decide

/-- The bounds of every range are met, and so are the values just outside. -/
theorem witness_encoder_ranges :
    (1 ≤ (1#8).toNat ∧ (4#8).toNat ≤ 4 ∧ (0#8).toNat < 1 ∧ 4 < (5#8).toNat) ∧
    ((5#8).toNat ≤ 5 ∧ 5 < (6#8).toNat ∧ (31#8).toNat ≤ 31 ∧ 31 < (32#8).toNat) ∧
    (0x61 ≤ (0x61#8).toNat ∧ (0x70#8).toNat ≤ 0x70 ∧ (0x60#8).toNat < 0x61 ∧ 0x70 < (0x71#8).toNat) ∧
    (0x61 < (0x62#8).toNat ∧ Params.default.familyRest.toList[(0x62#8).toNat - 0x62]? = some ⟨.sF, .s0, .s0, .s0⟩) ∧
    Params.default.familyRest.toList[(0x70#8).toNat - 0x62]? = some ⟨.sF, .sF, .sF, .sF⟩ ∧
    dipTransform false (List.replicate 5 0x30#8) = some (List.replicate 5 .sF) := by decide

/-- Both intents have a valid word at one address, for every encoder. -/
theorem witness_both_intents :
    (∃ v w, encA Params.default (List.replicate 5 0x31#8) 5#8 true = .valid v ∧
      encA Params.default (List.replicate 5 0x31#8) 5#8 false = .valid w) ∧
    (∃ v w, encB 4#8 4#8 true = .valid v ∧ encB 4#8 4#8 false = .valid w) ∧
    (∃ v w, encC Params.default 0x70#8 4#8 4#8 true = .valid v ∧
      encC Params.default 0x70#8 4#8 4#8 false = .valid w) ∧
    (∃ v w, encD Params.default (List.replicate 5 0x31#8) 31#8 true = .valid v ∧
      encD Params.default (List.replicate 5 0x31#8) 31#8 false = .valid w) :=
  ⟨⟨_, _, rfl, rfl⟩, ⟨_, _, rfl, rfl⟩, ⟨_, _, rfl, rfl⟩, ⟨_, _, rfl, rfl⟩⟩

theorem witness_states_with_equal_parameters : inPass.params = State.reset.params ∧ inPass ≠ State.reset ∧
    encoderResult inPass.params (.swonB 4#8 4#8) ≠ none := by decide

/-- The DIP strings of the Type A and Type D statements: all good, and bad in the last place. -/
theorem witness_dip_strings :
    (List.replicate 5 0x31#8).length = 5 ∧ (∀ j, j < 5 → (List.replicate 5 0x31#8).getD j 0#8 = 0x31#8) ∧
    [0x30#8, 0x30#8, 0x30#8, 0x30#8, 0x46#8].getD 4 0#8 = 0x46#8 ∧ permissive.params.dipAcceptF = true ∧
    State.reset.params.dipAcceptF = false := by decide

/-- The three ways of a `SW*` command: an invalid address, nothing to send with, and a start. -/
theorem witness_switch_commands :
    encB 1#8 5#8 true = .invalid ∧ State.reset.bound = false ∧ State.repeatCnt { ready with repeatCnt := 0#16 } = 0#16 ∧
    (∃ w, encB 1#8 4#8 true = .valid w ∧ ready.bound = true ∧ ready.repeatCnt ≠ 0#16) :=
  ⟨by decide, rfl, rfl, _, rfl, rfl, by decide⟩

theorem witness_send_tristate :
    (0 < 12 ∧ symField 0x000003#24 0 = 3#2) ∧ (11 < 12 ∧ symField 0xC00000#24 11 = 3#2) ∧
    (∀ i, i < 12 → symField 0xAAAAAA#24 i ≠ 3#2) ∧ State.reset.bound = false ∧
    ready.bound = true ∧ ready.repeatCnt ≠ 0#16 := by decide

theorem witness_set_profile : 0#8 ≠ 1#8 ∧ 0#8 ≠ 2#8 ∧ 3#8 ≠ 1#8 ∧ 3#8 ≠ 2#8 := by decide

theorem witness_set_pulse_len : 1#16 ≠ 0#16 := by decide

theorem witness_repeat_0 : State.repeatCnt { ready with repeatCnt := 0#16 } = 0#16 ∧ ready.busy = false ∧
    sentWord ready.params (.sendTristate 0#24) ≠ none ∧ ∃ u, exec (.setPulseLen 0#16) ready = .next u :=
  ⟨rfl, rfl, by decide, _, rfl⟩

theorem witness_enable_tx :
    (offerWord 0x1104#64 ready).pins.openOk = true ∧
    (State.pins { ready with inputs := [⟨false, true, 0x1104#64, false⟩] }).openOk = false ∧
    (offerWord 0x1104#64 ready).accepts = true ∧
    (offerWord 0x1104#64 ready).pins.cmdData = (17#8).setWidth 64 <<< 8 ||| 0x04#64 ∧
    State.Inv (offerWord 0x1104#64 ready) ∧ ∃ t, step (offerWord 0x1104#64 ready) = .next t :=
  ⟨rfl, rfl, rfl, by decide, ready_inv _, _, rfl⟩

theorem witness_unbound : State.reset.bound = false ∧ State.reset.busy = false ∧
    (∀ line, Instr.swonB 1#8 1#8 ≠ .enableTx line) ∧ sentWord State.reset.params (.swonB 1#8 1#8) ≠ none ∧
    (offerWord 0x05#64 ready).accepts = true ∧ (offerWord 0x05#64 ready).pins.cmdData = 0x05#64 ∧
    ∃ t, step (offerWord 0x05#64 ready) = .next t :=
  ⟨rfl, rfl, (fun _ h => by cases h), by decide, rfl, rfl, _, rfl⟩

theorem witness_register_writers : ∃ t, step (offerWord 0x0201#64 ready) = .next t ∧
    (offerWord 0x0201#64 ready).pins.rst = false ∧
    (offerWord 0x0201#64 ready).acceptedInstr = some (.setProfile 2#8) := ⟨_, rfl, rfl, by decide⟩

theorem witness_one_pass : zeros.length = 12 ∧ 1 ≤ 1 := by decide

theorem witness_transmission : ready.busy = false ∧ ready.bound = true ∧ ready.repeatCnt ≠ 0#16 ∧
    sentWord ready.params (.sendTristate 0#24) = some zeros := by decide

theorem witness_levels_to_come : inPass.Inv ∧ inPass.busy = true ∧ inPass.pins.rst = false :=
  ⟨inPass_inv, rfl, rfl⟩

/-- A whole pass of 128 cycles with nothing in its way; its first and its last segment. -/
theorem witness_placement :
    State.Inv (offerWord 0x06#64 ready) ∧
    (offerWord 0x06#64 ready).acceptedInstr = some (.sendTristate 0#24) ∧
    sentWord ready.params (.sendTristate 0#24) = some zeros ∧
    (offerWord 0x06#64 ready).bound = true ∧ (offerWord 0x06#64 ready).repeatCnt ≠ 0#16 ∧
    (offerWord 0x06#64 ready).resetFree (totalUnits (waveform zeros .p1 1) * unitCyc ready.params ready.pulseLen + 1) ∧
    ((waveform zeros .p1 1)[0]? = some ⟨true, 1⟩ ∧ segStart 1 (waveform zeros .p1 1) 0 = 0) ∧
    ((waveform zeros .p1 1)[49]? = some ⟨false, 31⟩ ∧ segStart 1 (waveform zeros .p1 1) 49 ≤ 127 ∧
      127 < segStart 1 (waveform zeros .p1 1) 50) := by
  refine ⟨ready_inv _, by decide, by decide, rfl, by decide, fun k _ => ?_, by decide, by decide⟩
  cases k with
  | zero => rfl
  | succ k => simp [offerWord, ready, State.reset, PortIn.idle]

theorem witness_units_of_time : 1 ≤ (1#16).toNat ∧ 1 ≤ Params.fClk { Params.default with fClk := 1 } ∧
    Params.default.fClk = 1000000 ∧ 1000000 ∣ (350#16).toNat * Params.default.fClk := by decide

/-- Each result code is given by an accepted word, with the hypotheses of its clause. -/
theorem witness_result_codes :
    (∃ t, (offerWord 0x010013#64 ready).accepts = true ∧ step (offerWord 0x010013#64 ready) = .next t ∧
      t.lastResult = .invalidAddress) ∧
    (∃ t, step (offerWord 0x0301#64 ready) = .next t ∧ t.lastResult = .badProfile) ∧
    (∃ t, step (offerWord 0x02#64 ready) = .next t ∧ t.lastResult = .badPulseLen) ∧
    (∃ t, step (offerWord 0xC0000006#64 ready) = .next t ∧ t.lastResult = .badSymbol) ∧
    (∃ t, step (offerWord 0x1104#64 { ready with inputs := [⟨false, false, 0#64, false⟩] }) = .next t ∧
      t.lastResult = .lineFault) ∧
    (∃ t, step (offerWord 0x00#64 ready) = .next t ∧ t.lastResult = .illegalCmd) :=
  ⟨⟨_, rfl, rfl, rfl⟩, ⟨_, rfl, rfl⟩, ⟨_, rfl, rfl⟩, ⟨_, rfl, rfl⟩, ⟨_, rfl, rfl⟩, ⟨_, rfl, rfl⟩⟩

theorem witness_checks :
    argumentCheck (.setPulseLen 0#16) ≠ none ∧ encoderCheck Params.default (.swonB 0#8 1#8) ≠ none ∧
    lineCheck false (.enableTx 17#8) ≠ none ∧ (offerWord 0x06#64 State.reset).accepts = true ∧
    State.reset.bound = false ∧ State.repeatCnt { ready with repeatCnt := 0#16 } = 0#16 := by decide

theorem witness_two_units : (0 ≠ 1) ∧ (System.mk [ready, inPass]).units[0]? = some ready ∧
    ∃ t, step ready = .next t := ⟨by decide, rfl, _, rfl⟩

/-- On one platform, where the `LINE_ID` is the line: nobody on line 3, one unit on line 17, two on line 17. -/
theorem witness_lines :
    (∀ k, k < 2 → drives (fun _ l => l.toNat) 3 k ready = false) ∧
    drives (fun _ l => l.toNat) 17 0 ready = true ∧ drives (fun _ l => l.toNat) 17 1 State.reset = false ∧
    drives (fun _ l => l.toNat) 17 1 inPass = true := by decide

theorem witness_source_arguments :
    fitsField 8 0 ∧ fitsField 8 255 ∧ ¬ fitsField 8 256 ∧ ¬ fitsField 8 (-1) ∧ fitsField 16 65535 ∧
    ¬ fitsField 16 65536 ∧ fitsDip ['1', '0', '0', '0', '\x66'] ∧ ¬ fitsDip ['1', '0', '0', '0'] ∧
    'a'.toNat < 256 ∧ ((List.replicate 12 3#2).map fieldChar).length = 12 := by
  refine ⟨?_, ?_, ?_, ?_, ?_, ?_, ⟨rfl, by simp⟩, fun h => absurd h.1 (by decide), by decide, rfl⟩ <;>
    norm_num [fitsField]

end Sys2Proof.Tests
end

section
/-! SUPPORT. The edge of a unit that accepts a command (00_scope.md R15; 30_encoding.md R70; 60_exceptions.md R256). -/

namespace Sys2Proof.Machine

open Sys2Proof

/-- The conditions of R70. -/
theorem accepts_iff {s : State} :
    s.accepts = true ↔ s.pins.cmdValid = true ∧ s.busy = false ∧ s.pins.rst = false := by
  simp [State.accepts, and_assoc]

/-- An accepting edge is the effect of the offered word and the end of the cycle (R256). -/
theorem step_of_accepts {s : State} (h : s.accepts = true) :
    step s = advanceOutcome (acceptWord s.pins.cmdData s) := by
  obtain ⟨hvalid, hbusy, hrst⟩ := accepts_iff.1 h
  simp [step, clockEdge, edgeEffect, hvalid, hbusy, hrst]

/-- A word that decodes has its command's effect (R78). -/
theorem acceptWord_of_decode {w : CmdWord} {i : Instr} (h : decode w = .ok i) (s : State) :
    acceptWord w s = exec i s := by
  simp [acceptWord, h]

/-- Settles O8: the accepting edge is the command's effect, and the schedule moves on. -/
theorem edgeRunsTheAcceptedCommand : Obligations.EdgeRunsTheAcceptedCommand := by
  intro s t i hvalid hbusy hrst hdecode hexec
  have haccepts : s.accepts = true := accepts_iff.2 ⟨hvalid, hbusy, hrst⟩
  have hinputs : t.inputs = s.inputs := by
    obtain ⟨t', ht', hin, -⟩ := exec_next i s
    obtain rfl : t = t' := by simpa using hexec.symm.trans ht'
    exact hin
  rw [step_of_accepts haccepts, acceptWord_of_decode hdecode, hexec, ← hinputs]
  rfl

end Sys2Proof.Machine
end

section
/-! SUPPORT. The edges of a system's units: an edge always ends in a next state (60_exceptions.md R259), so an edge of
unit `k` modifies entry `k` of the system (00_scope.md R10; 60_exceptions.md R263). -/

namespace Sys2Proof.Machine

open Sys2Proof

/-- Every edge answers a next state (R259). -/
theorem step_next (s : State) : ∃ t, step s = .next t := by
  rcases step_cases s with ⟨-, h⟩ | ⟨-, -, h⟩ | ⟨-, i, t, -, -, h⟩ | ⟨-, e, -, h⟩ | ⟨-, -, -, h⟩ <;> exact ⟨_, h⟩

/-- The state an edge ends in. No edge faults or is refused (`step_next`), so the other two arms are never taken. -/
def State.afterEdge (s : State) : State :=
  match step s with
  | .next t => t
  | .fault _ => s
  | .refused _ => s

theorem step_eq_next_iff {s t : State} : step s = .next t ↔ s.afterEdge = t := by
  obtain ⟨u, hu⟩ := step_next s
  simp [State.afterEdge, hu]

/-- An edge of unit `k` modifies the entry of that unit alone, and nothing where there is no such unit (log entry 7). -/
theorem stepUnit_eq (k : Nat) (sys : System) :
    sys.stepUnit k = .next ⟨sys.units.modify k State.afterEdge⟩ := by
  cases hs : sys.units[k]? with
  | none =>
    have hlen : sys.units.length ≤ k := List.getElem?_eq_none_iff.1 hs
    simp [System.stepUnit, hs, List.modify_eq_self hlen]
  | some s =>
    have hstep : step s = .next s.afterEdge := step_eq_next_iff.2 rfl
    simp [System.stepUnit, hs, hstep, List.modify_eq_set_getElem?]

/-- Settles O53: edges of two units modify two different entries, so they do not see one another and commute. -/
theorem unitsAreIndependent : Obligations.UnitsAreIndependent := by
  intro sys j k hjk
  refine ⟨_, _, _, stepUnit_eq j sys, stepUnit_eq k sys, List.length_modify .., ?others, ?own,
    stepUnit_eq k _, ?commute⟩
  case others =>
    intro m hm
    exact List.getElem?_modify_ne _ _ hm.symm
  case own =>
    intro s t hs hstep
    simp [hs, step_eq_next_iff.1 hstep]
  case commute =>
    rw [stepUnit_eq, List.modify_modify_ne _ _ _ hjk]

end Sys2Proof.Machine
end

section
/-! SUPPORT. The registers after a command (20_memory.md R56): what latching and transmitting leave in each command
register, and one inversion lemma for `exec`. -/

namespace Sys2Proof.Machine

open Sys2Proof

/-! `Latch(r)` writes the three result registers alone (R109). -/

@[simp] theorem latch_bound (r : EncResult) (s : State) : (latch r s).bound = s.bound := by cases r <;> rfl
@[simp] theorem latch_lineId (r : EncResult) (s : State) : (latch r s).lineId = s.lineId := by cases r <;> rfl
@[simp] theorem latch_profile (r : EncResult) (s : State) : (latch r s).profile = s.profile := by cases r <;> rfl
@[simp] theorem latch_pulseLen (r : EncResult) (s : State) : (latch r s).pulseLen = s.pulseLen := by cases r <;> rfl
@[simp] theorem latch_repeatCnt (r : EncResult) (s : State) : (latch r s).repeatCnt = s.repeatCnt := by cases r <;> rfl
@[simp] theorem latch_params (r : EncResult) (s : State) : (latch r s).params = s.params := by cases r <;> rfl

section Transmit

variable (w : List TriSym) (s : State)

/-! `Transmit(w)` writes no command register (R204, R205). -/

@[simp] theorem transmit_bound : (transmit w s).bound = s.bound := by
  obtain ⟨h, -⟩ := transmit_sameCommandRegisters w s; exact h
@[simp] theorem transmit_lineId : (transmit w s).lineId = s.lineId := by
  obtain ⟨-, h, -⟩ := transmit_sameCommandRegisters w s; exact h
@[simp] theorem transmit_profile : (transmit w s).profile = s.profile := by
  obtain ⟨-, -, h, -⟩ := transmit_sameCommandRegisters w s; exact h
@[simp] theorem transmit_pulseLen : (transmit w s).pulseLen = s.pulseLen := by
  obtain ⟨-, -, -, h, -⟩ := transmit_sameCommandRegisters w s; exact h
@[simp] theorem transmit_repeatCnt : (transmit w s).repeatCnt = s.repeatCnt := by
  obtain ⟨-, -, -, -, h, -⟩ := transmit_sameCommandRegisters w s; exact h
@[simp] theorem transmit_lastWord : (transmit w s).lastWord = s.lastWord := by
  obtain ⟨-, -, -, -, -, h, -⟩ := transmit_sameCommandRegisters w s; exact h
@[simp] theorem transmit_lastValid : (transmit w s).lastValid = s.lastValid := by
  obtain ⟨-, -, -, -, -, -, h, -⟩ := transmit_sameCommandRegisters w s; exact h
@[simp] theorem transmit_lastResult : (transmit w s).lastResult = s.lastResult := by
  obtain ⟨-, -, -, -, -, -, -, h, -⟩ := transmit_sameCommandRegisters w s; exact h
@[simp] theorem transmit_params : (transmit w s).params = s.params := by
  obtain ⟨-, -, -, -, -, -, -, -, h⟩ := transmit_sameCommandRegisters w s; exact h

end Transmit

/-- An encoding command either latches its encoder result, or latches it and sends (40_encoder.md section 3;
43_transmit.md R211 to R218). -/
theorem exec_of_encoderResult {i : Instr} {s : State} {r : EncResult} (h : encoderResult s.params i = some r) :
    exec i s = encodeOnly r s ∨ exec i s = encodeAndSend r s := by
  cases i with
  | enconA | encoffA | enconB | encoffB | enconC | encoffC | enconD | encoffD => cases h; exact .inl rfl
  | swonA | swoffA | swonB | swoffB | swonC | swoffC | swonD | swoffD => cases h; exact .inr rfl
  | _ => cases h

/-- Every valid encoder result has 12 symbols (R108). -/
theorem encoderResult_valid_length {p : Params} {i : Instr} {w : List TriSym}
    (h : encoderResult p i = some (.valid w)) : w.length = 12 := by
  cases i with
  | swonA | swoffA | enconA | encoffA => exact encA_valid_length (Option.some.inj h)
  | swonB | swoffB | enconB | encoffB => exact encB_valid_length (Option.some.inj h)
  | swonC | swoffC | enconC | encoffC => exact encC_valid_length (Option.some.inj h)
  | swonD | swoffD | enconD | encoffD => exact encD_valid_length (Option.some.inj h)
  | _ => cases h

/-- The outcomes of a command run in `s`: which command, under which condition, ends in which state. `exec` has no
other (`exec_outcome`). -/
inductive CommandOutcome (s : State) : Instr → State → Prop
  /-- `SET_PROFILE` of a legal profile (R170) -/
  | setsProfile {n : Byte} {p : Profile} (h : profileOf n = some p) :
      CommandOutcome s (.setProfile n) (finish { s with profile := p, pulseLen := (timing p).defaultLen })
  /-- `SET_PROFILE` of another number (R170) -/
  | rejectsProfile {n : Byte} (h : profileOf n = none) :
      CommandOutcome s (.setProfile n) (raiseResult .badProfile s)
  /-- `SET_PULSE_LEN` of a legal length (R171) -/
  | setsPulseLen {us : Half} (h : us ≠ 0#16) :
      CommandOutcome s (.setPulseLen us) (finish { s with pulseLen := us })
  /-- `SET_PULSE_LEN 0` (R171) -/
  | rejectsPulseLen : CommandOutcome s (.setPulseLen 0#16) (raiseResult .badPulseLen s)
  /-- `SET_REPEAT` (R172) -/
  | setsRepeat {n : Half} : CommandOutcome s (.setRepeat n) (finish { s with repeatCnt := n })
  /-- `ENABLE_TX` where the line opens (R173) -/
  | opensLine {l : Byte} (h : s.pins.openOk = true) :
      CommandOutcome s (.enableTx l) (finish { s with lineId := l, bound := true })
  /-- `ENABLE_TX` where the line does not open (R173) -/
  | failsToOpen {l : Byte} (h : s.pins.openOk = false) :
      CommandOutcome s (.enableTx l) (raiseResult .lineFault { s with lineId := l, bound := false })
  /-- `DISABLE_TX` (R174) -/
  | unbinds : CommandOutcome s .disableTx (finish { s with bound := false })
  /-- `SEND_TRISTATE` of a well-formed word (R219) -/
  | sends {f : CodeField} {w : List TriSym} (h : unpack f = some w) :
      CommandOutcome s (.sendTristate f) (transmit w (finish s))
  /-- `SEND_TRISTATE` of a word with a reserved field (R219) -/
  | rejectsWord {f : CodeField} (h : unpack f = none) :
      CommandOutcome s (.sendTristate f) (raiseResult .badSymbol s)
  /-- an encoding command that sends nothing: an `ENC*`, or a `SW*` with an invalid address (R109) -/
  | latches {i : Instr} {r : EncResult} (h : encoderResult s.params i = some r) : CommandOutcome s i (latch r s)
  /-- a `SW*` command with a valid address (R211 to R218) -/
  | latchesAndSends {i : Instr} {w : List TriSym} (h : encoderResult s.params i = some (.valid w)) :
      CommandOutcome s i (transmit w (latch (.valid w) s))

theorem exec_params_inputs {i : Instr} {s t : State} (h : exec i s = .next t) :
    t.params = s.params ∧ t.inputs = s.inputs := by
  obtain ⟨u, hu, hinputs, hparams⟩ := exec_next i s
  obtain rfl : t = u := by simpa using h.symm.trans hu
  exact ⟨hparams, hinputs⟩

/-- Everything a command can do. -/
theorem exec_outcome {i : Instr} {s t : State} (h : exec i s = .next t) : CommandOutcome s i t := by
  cases hr : encoderResult s.params i with
  | some r =>
    rcases exec_of_encoderResult hr with e | e <;> rw [e] at h
    · cases h; exact .latches hr
    · rcases encodeAndSend_cases r s with ⟨rfl, e⟩ | ⟨w, rfl, e⟩ <;> rw [e] at h <;> cases h
      · exact .latches hr
      · exact .latchesAndSends hr
  | none =>
    cases i with
    | setProfile n =>
      simp only [exec, execSetProfile] at h
      split at h <;> cases h
      next hnone => exact .rejectsProfile hnone
      next p hsome => exact .setsProfile hsome
    | setPulseLen us =>
      simp only [exec, execSetPulseLen] at h
      split at h <;> cases h
      next hzero => subst us; exact .rejectsPulseLen
      next hnonzero => exact .setsPulseLen hnonzero
    | setRepeat n => cases h; exact .setsRepeat
    | enableTx l =>
      simp only [exec, execEnableTx] at h
      split at h <;> cases h
      next hopens => exact .opensLine hopens
      next hfails => exact .failsToOpen (by simpa using hfails)
    | disableTx => cases h; exact .unbinds
    | sendTristate f =>
      rcases execSendTristate_cases f s with ⟨hn, e⟩ | ⟨w, hw, e⟩ <;> rw [exec, e] at h <;> cases h
      · exact .rejectsWord hn
      · exact .sends hw
    | _ => cases hr

end Sys2Proof.Machine
end

section
/-! SUPPORT. The register invariant of 10_state.md R39 and its edges. Its clauses fall into three groups, each about
registers that have their own writers: the configuration, the latched result, the serializer. -/

namespace Sys2Proof.Machine

open Sys2Proof

/-- The clauses of R39 about `LAST_WORD` and `LAST_VALID`. -/
def State.LatchLegal (s : State) : Prop :=
  (s.lastValid = false → s.lastWord = 0xFFFFFF#24) ∧
  (s.lastValid = true →
    ∀ i, i < 12 → symField s.lastWord i = 0#2 ∨ symField s.lastWord i = 1#2 ∨ symField s.lastWord i = 2#2)

/-- The clauses of R39 and R29 about the serializer. -/
def State.SerializerLegal (s : State) : Prop :=
  (s.busy = false → s.txSegs = [] ∧ s.txTicks = 0 ∧ s.lineOut = false) ∧
  (s.busy = true → s.bound = true ∧ 1 ≤ s.txTicks ∧ 1 ≤ s.txUnit) ∧
  ∀ g ∈ s.txSegs, 1 ≤ g.units

/-- The invariant by groups. `PROFILE` and `LAST_RESULT` are legal by their types (log entry 5), and a pulse length
is at most 65535 by its width. -/
theorem inv_iff {s : State} :
    s.Inv ↔ 1 ≤ s.params.fClk ∧ 1 ≤ s.pulseLen.toNat ∧ s.LatchLegal ∧ s.SerializerLegal := by
  constructor
  · intro h
    exact ⟨h.clock, h.pulseLegal.1, ⟨h.wordInvalid, h.wordValid⟩, h.idleClear, h.busyBound, h.segsLegal⟩
  · rintro ⟨hclock, hpulse, ⟨hinvalid, hvalid⟩, hidle, hbusy, hsegs⟩
    have hprofile : s.profile.code = 1#2 ∨ s.profile.code = 2#2 := by
      cases s.profile
      · exact .inl rfl
      · exact .inr rfl
    have hresult : s.lastResult.code.toNat ≤ 6 := by cases s.lastResult <;> decide
    have hwidth : s.pulseLen.toNat ≤ 65535 := by omega
    exact ⟨hclock, hprofile, ⟨hpulse, hwidth⟩, hresult, hinvalid, hvalid, hidle, hbusy, hsegs⟩

@[simp] theorem inv_advance {s : State} : s.advance.Inv ↔ s.Inv := by
  simp [inv_iff, State.LatchLegal, State.SerializerLegal]

@[simp] theorem inv_raiseResult {c : ResultCode} {s : State} : (raiseResult c s).Inv ↔ s.Inv := by
  simp [inv_iff, State.LatchLegal, State.SerializerLegal]

/-- The reset values meet the invariant, whatever the parameters the spec allows (R290, R6). -/
theorem resetRegisters_inv {s : State} (h : 1 ≤ s.params.fClk) : (resetRegisters s).Inv := by
  simpa [inv_iff, State.LatchLegal, State.SerializerLegal] using h

/-- A symbol field of a packed word is no reserved code (R72). -/
theorem symField_pack_legal {w : List TriSym} (hw : w.length = 12) {i : Nat} (hi : i < 12) :
    symField (pack w) i = 0#2 ∨ symField (pack w) i = 1#2 ∨ symField (pack w) i = 2#2 := by
  have hcode := symField_pack hw i (by omega)
  have hlt := symCode_lt w[i]
  bv_omega

/-- What an encoding command latches is legal: 12 symbols, or the invalid pattern (R85, R109). -/
theorem latch_legal {r : EncResult} {s : State} (h : ∀ w, r = .valid w → w.length = 12) :
    (latch r s).LatchLegal := by
  cases r with
  | invalid => simp [State.LatchLegal, invalidPattern]
  | valid w => simpa [State.LatchLegal] using fun i hi => symField_pack_legal (h w rfl) hi

/-- `LatchLegal` reads two registers. -/
theorem State.LatchLegal.congr {s t : State} (h : s.LatchLegal) (hword : t.lastWord = s.lastWord)
    (hvalid : t.lastValid = s.lastValid) : t.LatchLegal := by
  rwa [State.LatchLegal, hword, hvalid]

namespace CommandOutcome

variable {s t : State} {i : Instr}

/-- Every pulse length that a command writes is positive: a profile's default or an operand that is not 0 (R36,
R171). -/
theorem pulseLen_pos (h : CommandOutcome s i t) (hs : 1 ≤ s.pulseLen.toNat) : 1 ≤ t.pulseLen.toNat := by
  cases h with
  | @setsProfile n p _ =>
    rw [finish_pulseLen]
    cases p <;> simp [timing]
  | setsPulseLen hus =>
    rw [finish_pulseLen]
    bv_omega
  | _ => simpa using hs

theorem latchLegal (h : CommandOutcome s i t) (hs : s.LatchLegal) : t.LatchLegal := by
  cases h with
  | latches hr => exact latch_legal fun w hw => encoderResult_valid_length (hw ▸ hr)
  | @latchesAndSends _ w hr =>
    have hl : (latch (.valid w) s).LatchLegal :=
      latch_legal fun v hv => encoderResult_valid_length (hv ▸ hr)
    exact hl.congr (by simp) (by simp)
  | _ => exact hs.congr (by simp) (by simp)

end CommandOutcome

/-- The first cycle of a transmission is legal: every segment of a waveform has at least one unit, and a unit has at
least one cycle (R151, R205). -/
theorem startedFrom_serializerLegal {w : List TriSym} {s t : State} (hclock : 1 ≤ s.params.fClk)
    (hpulse : 1 ≤ s.pulseLen.toNat) (h : startedFrom w s t) : t.SerializerLegal := by
  obtain ⟨hbound, -, k, rest, hwave, hbusy, -, hsegs, hticks, hunit, hkeep, -⟩ := h
  have hcyc : 1 ≤ unitCyc s.params s.pulseLen := unitCyc_pos hclock hpulse
  have hunits : ∀ g ∈ (⟨true, k⟩ :: rest : List Segment), 1 ≤ g.units := by
    rw [← hwave]
    exact fun g => waveform_units
  obtain ⟨hk, hrest⟩ := List.forall_mem_cons.1 hunits
  refine ⟨by simp [hbusy], fun _ => ⟨hkeep.trans hbound, ?_, hunit ▸ hcyc⟩, hsegs ▸ hrest⟩
  rw [hticks]
  exact Nat.mul_le_mul hk hcyc

/-- An idle unit's command leaves the serializer legal: idle as it was, or at the start of a transmission. -/
theorem exec_serializerLegal {i : Instr} {s t : State} (hs : s.Inv) (hidle : s.busy = false)
    (h : exec i s = .next t) : t.SerializerLegal := by
  rcases exec_serializer_cases h with ⟨⟨hbusy, hline, hsegs, hticks, -⟩, -⟩ | ⟨w, -, hstart⟩
  · obtain ⟨hs0, ht0, hl0⟩ := hs.idleClear hidle
    simp [State.SerializerLegal, hbusy, hidle, hsegs, hs0, hticks, ht0, hline, hl0]
  · exact startedFrom_serializerLegal hs.clock hs.pulseLegal.1 hstart

theorem exec_keeps_inv {i : Instr} {s t : State} (hs : s.Inv) (hidle : s.busy = false) (h : exec i s = .next t) :
    t.Inv := by
  obtain ⟨hclock, hpulse, hlatch, -⟩ := inv_iff.1 hs
  obtain ⟨hparams, -⟩ := exec_params_inputs h
  have hout := exec_outcome h
  exact inv_iff.2 ⟨by rwa [hparams], hout.pulseLen_pos hpulse, hout.latchLegal hlatch,
    exec_serializerLegal hs hidle h⟩

/-- The serializer goes on inside a segment, to the next segment, or to rest (R206). -/
theorem serializerStep_serializerLegal {s : State} (hbusy : s.busy = true) (hs : s.SerializerLegal) :
    (serializerStep s).SerializerLegal := by
  obtain ⟨-, hrun, hsegs⟩ := hs
  obtain ⟨hbound, hticks, hunit⟩ := hrun hbusy
  rcases serializerStep_cases s with ⟨hlt, e⟩ | ⟨-, g, rest, hcons, e⟩ | ⟨-, hnil, e⟩ <;> rw [e]
  · exact ⟨by simp [hbusy], fun _ => ⟨hbound, by simp only; omega, hunit⟩, hsegs⟩
  · rw [hcons] at hsegs
    obtain ⟨hg, hrest⟩ := List.forall_mem_cons.1 hsegs
    exact ⟨by simp [hbusy], fun _ => ⟨hbound, Nat.mul_le_mul hg hunit, hunit⟩, hrest⟩
  · simp [State.SerializerLegal, hnil]

theorem serializerStep_keeps_inv {s : State} (hbusy : s.busy = true) (hs : s.Inv) : (serializerStep s).Inv := by
  obtain ⟨hclock, hpulse, hlatch, hserial⟩ := inv_iff.1 hs
  obtain ⟨-, -, -, hlen, -, hword, hvalid, -, hparams⟩ := serializerStep_sameCommandRegisters s
  exact inv_iff.2 ⟨by rwa [hparams], by rwa [hlen], hlatch.congr hword hvalid,
    serializerStep_serializerLegal hbusy hserial⟩

/-- Settles O4: each of the five ways of an edge keeps the invariant. -/
theorem everyEdgeKeepsTheRegisterInvariant : Obligations.EveryEdgeKeepsTheRegisterInvariant := by
  intro s t hs h
  rcases step_cases s with ⟨-, e⟩ | ⟨-, hbusy, e⟩ | ⟨haccepts, i, u, -, hexec, e⟩ | ⟨-, -, -, e⟩ | ⟨-, -, -, e⟩ <;>
    rw [e] at h <;> cases h <;> rw [inv_advance]
  · exact resetRegisters_inv hs.clock
  · exact serializerStep_keeps_inv hbusy hs
  · obtain ⟨-, hidle, -⟩ := accepts_iff.1 haccepts
    exact exec_keeps_inv hs hidle hexec
  · exact inv_raiseResult.2 hs
  · exact hs

/-- The state a unit with the parameters `p` starts from is the result of a reset edge (R290, R293). -/
theorem reset_inv {p : Params} (xs : List PortIn) (h : 1 ≤ p.fClk) :
    State.Inv { State.reset with params := p, inputs := xs } :=
  resetRegisters_inv (s := { State.reset with params := p, inputs := xs }) h

/-- Settles O3: the reset values are legal, and a unit at rest is in the middle of no transmission. -/
theorem invariantsHoldAtReset : Obligations.InvariantsHoldAtReset := by
  intro p xs hp
  exact ⟨reset_inv xs hp, fun hbusy => by cases hbusy⟩

/-- What every edge keeps holds after any number of edges. -/
theorem runEdges_keeps {P : State → Prop} (hP : ∀ s t, P s → step s = .next t → P t) (n : Nat) {s : State}
    (hs : P s) : ∃ t, runEdges n s = .next t ∧ P t := by
  induction n generalizing s with
  | zero => exact ⟨s, rfl, hs⟩
  | succ n ih =>
    obtain ⟨u, hu⟩ := step_next s
    simpa [runEdges, hu] using ih (hP s u hs hu)

/-- Settles O6: the invariant holds at reset and every edge keeps it. -/
theorem reachableStatesMeetRule39 : Obligations.ReachableStatesMeetRule39 := by
  intro p xs n hp
  obtain ⟨t, hrun, ht⟩ := runEdges_keeps everyEdgeKeepsTheRegisterInvariant n (reset_inv xs hp)
  exact ⟨t, hrun, ht.profileLegal, ht.pulseLegal, ht.resultLegal, ht.wordInvalid, ht.wordValid, ht.idleClear,
    ht.busyBound⟩

end Sys2Proof.Machine
end

section
/-! SUPPORT. Which commands write which register (10_state.md R20; 42_transmitter_config.md R175). -/

namespace Sys2Proof.Machine

open Sys2Proof

/-- An operand that selects a profile is 1 or 2 (R170). -/
theorem profileOf_operand {n : Byte} {p : Profile} (h : profileOf n = some p) : n = 1#8 ∨ n = 2#8 :=
  (profileOf_eq_some_iff.1 h).imp And.left And.left

namespace CommandOutcome

variable {s t : State} {i : Instr}

theorem bound_writer (h : CommandOutcome s i t) :
    t.bound = s.bound ∨ (∃ l, i = .enableTx l) ∨ i = .disableTx := by
  cases h with
  | opensLine | failsToOpen => exact .inr (.inl ⟨_, rfl⟩)
  | unbinds => exact .inr (.inr rfl)
  | _ => exact .inl (by simp)

theorem lineId_writer (h : CommandOutcome s i t) : t.lineId = s.lineId ∨ ∃ l, i = .enableTx l := by
  cases h with
  | opensLine | failsToOpen => exact .inr ⟨_, rfl⟩
  | _ => exact .inl (by simp)

theorem profile_writer (h : CommandOutcome s i t) :
    t.profile = s.profile ∨ ∃ n, i = .setProfile n ∧ (n = 1#8 ∨ n = 2#8) := by
  cases h with
  | setsProfile hn => exact .inr ⟨_, rfl, profileOf_operand hn⟩
  | _ => exact .inl (by simp)

theorem pulseLen_writer (h : CommandOutcome s i t) :
    t.pulseLen = s.pulseLen ∨ (∃ n, i = .setProfile n ∧ (n = 1#8 ∨ n = 2#8)) ∨
      ∃ us, i = .setPulseLen us ∧ us ≠ 0#16 := by
  cases h with
  | setsProfile hn => exact .inr (.inl ⟨_, rfl, profileOf_operand hn⟩)
  | setsPulseLen hus => exact .inr (.inr ⟨_, rfl, hus⟩)
  | _ => exact .inl (by simp)

theorem repeatCnt_writer (h : CommandOutcome s i t) :
    t.repeatCnt = s.repeatCnt ∨ ∃ n, i = .setRepeat n := by
  cases h with
  | setsRepeat => exact .inr ⟨_, rfl⟩
  | _ => exact .inl (by simp)

theorem latch_writer (h : CommandOutcome s i t) :
    (t.lastWord = s.lastWord ∧ t.lastValid = s.lastValid) ∨ ∃ r, encoderResult s.params i = some r := by
  cases h with
  | latches hr | latchesAndSends hr => exact .inr ⟨_, hr⟩
  | _ => exact .inl (by simp)

end CommandOutcome

/-- The command of an accepting edge (R70, R78). -/
theorem acceptedInstr_of_decode {s : State} {i : Instr} (haccepts : s.accepts = true)
    (hdecode : decode s.pins.cmdData = .ok i) : s.acceptedInstr = some i := by
  simp [State.acceptedInstr, haccepts, hdecode]

theorem serializerStep_inputs (s : State) : (serializerStep s).inputs = s.inputs := by
  rcases serializerStep_cases s with ⟨-, e⟩ | ⟨-, g, rest, -, e⟩ | ⟨-, -, e⟩ <;> rw [e]

/-- An edge writes no parameter and consumes one entry of the schedule (R293, R15). -/
theorem step_params_inputs {s t : State} (h : step s = .next t) : t.params = s.params ∧ t.inputs = s.inputs.tail := by
  rcases step_cases s with ⟨-, e⟩ | ⟨-, -, e⟩ | ⟨-, i, u, -, hexec, e⟩ | ⟨-, -, -, e⟩ | ⟨-, -, -, e⟩ <;>
    rw [e] at h <;> cases h
  · simp
  · obtain ⟨-, -, -, -, -, -, -, -, hparams⟩ := serializerStep_sameCommandRegisters s
    simp [hparams, serializerStep_inputs]
  · obtain ⟨hparams, hinputs⟩ := exec_params_inputs hexec
    simp [hparams, hinputs]
  · simp
  · simp

/-- Settles O41: without reset an edge is a serializer step, which writes no command register, or an accepted word,
whose command writes its own registers, or writes nothing. -/
theorem registersHaveOnlyTheirWriters : Obligations.RegistersHaveOnlyTheirWriters := by
  intro s t h
  obtain ⟨hparams, hinputs⟩ := step_params_inputs h
  refine ⟨hparams, hinputs, fun hrst => ?_⟩
  rcases step_cases s with ⟨hreset, e⟩ | ⟨-, hbusy, e⟩ | ⟨haccepts, i, u, hdecode, hexec, e⟩ | ⟨haccepts, -, -, e⟩ |
    ⟨-, -, -, e⟩ <;> rw [e] at h <;> cases h
  · simp [hrst] at hreset
  · obtain ⟨hb, hl, hp, hlen, hrep, hword, hvalid, hresult, -⟩ := serializerStep_sameCommandRegisters s
    exact ⟨.inl hb, .inl hl, .inl hp, .inl hlen, .inl hrep, .inl ⟨hword, hvalid⟩, .inl hresult, .inr (.inl hbusy)⟩
  · have hout := exec_outcome hexec
    simp only [acceptedInstr_of_decode haccepts hdecode, Option.some.injEq]
    refine ⟨hout.bound_writer, hout.lineId_writer, hout.profile_writer, hout.pulseLen_writer, hout.repeatCnt_writer,
      hout.latch_writer.imp_right fun ⟨r, hr⟩ => ⟨i, r, rfl, hr⟩, .inr haccepts, ?_⟩
    rcases exec_serializer_cases hexec with ⟨hsame, -⟩ | ⟨w, hw, hbound, hrep, -⟩
    · exact .inl hsame
    · exact .inr (.inr ⟨i, w, rfl, hw, hbound, hrep⟩)
  · simp [haccepts]
  · simp

/-- An encoding command ends with the registers of its latched result, whatever it sends (R109, R204). -/
theorem exec_latches {i : Instr} {s : State} {r : EncResult} (h : encoderResult s.params i = some r) :
    ∃ t, exec i s = .next t ∧ sameCommandRegisters (latch r s) t := by
  rcases exec_of_encoderResult h with e | e
  · exact ⟨_, e, by simp [sameCommandRegisters]⟩
  · rcases encodeAndSend_cases r s with ⟨rfl, e'⟩ | ⟨w, rfl, e'⟩
    · exact ⟨_, e.trans e', by simp [sameCommandRegisters]⟩
    · exact ⟨_, e.trans e', transmit_sameCommandRegisters _ _⟩

/-- The three registers `Latch(r)` writes depend on `r` alone (R109). -/
theorem latch_registers_eq (r : EncResult) (s s' : State) :
    (latch r s).lastWord = (latch r s').lastWord ∧ (latch r s).lastValid = (latch r s').lastValid ∧
    (latch r s).lastResult = (latch r s').lastResult := by
  cases r <;> exact ⟨rfl, rfl, rfl⟩

/-- Settles O29: both states latch one encoder result, which the operands and the parameters determine. -/
theorem encoderReadsNoRegister : Obligations.EncoderReadsNoRegister := by
  intro i s s' r hparams hr
  obtain ⟨t, ht, -, -, -, -, -, hword, hvalid, hresult, -⟩ := exec_latches hr
  obtain ⟨t', ht', -, -, -, -, -, hword', hvalid', hresult', -⟩ := exec_latches (hparams ▸ hr)
  obtain ⟨ew, ev, er⟩ := latch_registers_eq r s s'
  exact ⟨t, t', ht, ht', by rw [hword, hword', ew], by rw [hvalid, hvalid', ev], by rw [hresult, hresult', er]⟩

end Sys2Proof.Machine
end

section
/-! SUPPORT. The status word and the reset values (10_state.md R20, R30, R31). -/

namespace Sys2Proof.Machine

open Sys2Proof

theorem reset_status : State.reset.status = 0x00000004#32 := by decide

/-- Settles O2: the thirteen registers of the literal, and the status word they make. -/
theorem resetStateHasTheSpecValues : Obligations.ResetStateHasTheSpecValues :=
  ⟨rfl, rfl, rfl, rfl, rfl, rfl, rfl, rfl, rfl, rfl, rfl, rfl, rfl, reset_status⟩

/-- A reset edge ends in the reset values (R290). -/
theorem step_of_reset {s : State} (h : s.pins.rst = true) : step s = .next (resetRegisters s).advance := by
  simp [step, clockEdge, edgeEffect, h, advanceOutcome]

/-- The fields of `STATUS` (R31): cutting the word at the field's bounds leaves the one part that fills it. -/
theorem status_fields (s : State) :
    s.status.getLsbD 0 = s.busy ∧ s.status.getLsbD 1 = s.bound ∧ s.status.extractLsb' 2 2 = s.profile.code ∧
    s.status.getLsbD 4 = s.lastValid ∧ s.status.extractLsb' 5 3 = 0#3 ∧
    s.status.extractLsb' 8 3 = s.lastResult.code ∧ s.status.extractLsb' 11 21 = 0#21 := by
  simp only [State.status, BitVec.getLsbD_append, BitVec.extractLsb'_append_eq_ite]
  simp

/-- Settles O50: every port is its register by definition, and the reset values give the value after reset. -/
theorem statusWordLayout : Obligations.StatusWordLayout := by
  constructor
  · intro s
    obtain ⟨hbusy, hbound, hprofile, hvalid, hlow, hresult, hhigh⟩ := status_fields s
    exact ⟨hbusy, hbound, hprofile, hvalid, hlow, hresult, hhigh, rfl, rfl, rfl, rfl, rfl, rfl, rfl⟩
  · intro s t hrst h
    rw [step_of_reset hrst] at h
    cases h
    exact reset_status

end Sys2Proof.Machine
end

section
/-! SUPPORT. Placing a word offers it to a unit that is ready (20_memory.md R61; 30_encoding.md R70; log entry 2). -/

namespace Sys2Proof.Machine

open Sys2Proof

/-- Settles O9: a placed word is an offered and accepted one, so the edge runs its command as every accepting edge
does (O8). -/
theorem placedWordIsRunByTheNextEdge : Obligations.PlacedWordIsRunByTheNextEdge := by
  intro s nbits w i hdecode
  obtain ⟨t, hexec, -, -⟩ := exec_next i (s.withFetchWord nbits w)
  obtain ⟨hvalid, hbusy, hrst⟩ := accepts_iff.1 (accepts_offerWord (BitVec.ofNat 64 (w % 2 ^ nbits)) s)
  exact ⟨t, hexec, edgeRunsTheAcceptedCommand _ t i hvalid hbusy hrst hdecode hexec⟩

end Sys2Proof.Machine
end

section
/-! SUPPORT. Command words given by their bytes, byte `i` in bits `[8i+7:8i]` (30_encoding.md R71, R76): what is read
at each byte, and the formats AD, GB and FC as such words. -/

namespace Sys2Proof

/-- Byte `i` is digit `i`, base 256. -/
theorem natOfBytes_digit (bs : List Byte) (i : Nat) (h : i < bs.length) :
    natOfBytes bs / 256 ^ i % 256 = bs[i].toNat := by
  induction bs generalizing i with
  | nil => simp at h
  | cons b bs ih =>
    have hb := b.isLt
    cases i with
    | zero => simp only [natOfBytes, Nat.pow_zero, Nat.div_one, List.getElem_cons_zero]; omega
    | succ i =>
      have hrest : natOfBytes (b :: bs) / 256 = natOfBytes bs := by simp only [natOfBytes]; omega
      rw [Nat.pow_succ', ← Nat.div_div_eq_div_mul, hrest, List.getElem_cons_succ]
      exact ih i (by simpa using h)

/-- Eight bytes fit a command word. -/
theorem toNat_ofNat_natOfBytes {bs : List Byte} (h : bs.length ≤ 8) :
    (BitVec.ofNat 64 (natOfBytes bs)).toNat = natOfBytes bs := by
  have hpow : 256 ^ bs.length ≤ 2 ^ 64 := Nat.pow_le_pow_right (n := 256) (by decide) h
  rw [BitVec.toNat_ofNat, Nat.mod_eq_of_lt ((natOfBytes_lt bs).trans_le hpow)]

/-- The field at bit `8i` of a word is its byte `i`. -/
theorem field8_ofNat_natOfBytes {bs : List Byte} (h : bs.length ≤ 8) (i : Nat) {b : Byte} (hb : bs[i]? = some b) :
    field8 (BitVec.ofNat 64 (natOfBytes bs)) (8 * i) = b := by
  obtain ⟨hi, rfl⟩ := List.getElem?_eq_some_iff.1 hb
  apply field8_eq
  rw [toNat_ofNat_natOfBytes h, Nat.pow_mul]
  exact natOfBytes_digit bs i hi

/-- An opcode byte and as many operand bytes as its format holds make a word of that command (R78). -/
theorem decode_ofNat_natOfBytes {op : Opcode} {bs : List Byte} (h : 8 * (1 + bs.length) = op.format.usedBits) :
    decode (BitVec.ofNat 64 (natOfBytes (op.byte :: bs))) =
      .ok (op.withOperands (BitVec.ofNat 64 (natOfBytes (op.byte :: bs)))) := by
  have hlen : (op.byte :: bs).length ≤ 8 := by
    have hused : op.format.usedBits ≤ 64 := by cases op <;> decide
    rw [List.length_cons]
    omega
  refine decode_eq_ok_iff.2 ⟨op, field8_ofNat_natOfBytes hlen 0 rfl, ?_, rfl⟩
  rw [toNat_ofNat_natOfBytes hlen, ← h, Nat.pow_mul, Nat.add_comm]
  exact natOfBytes_lt (op.byte :: bs)

end Sys2Proof

namespace Sys2Proof.Machine

open Sys2Proof

/-! The weights of R76 are those of the bytes. -/

theorem adWord_eq (b d0 d1 d2 d3 d4 chan : Byte) :
    adWord b.toNat d0 d1 d2 d3 d4 chan = BitVec.ofNat 64 (natOfBytes [b, d0, d1, d2, d3, d4, chan]) := by
  rw [adWord]
  congr 1
  simp only [natOfBytes]
  omega

theorem gbWord_eq (b group chan : Byte) :
    gbWord b.toNat group chan = BitVec.ofNat 64 (natOfBytes [b, group, chan]) := by
  rw [gbWord]
  congr 1
  simp only [natOfBytes]
  omega

theorem fcWord_eq (b family group dev : Byte) :
    fcWord b.toNat family group dev = BitVec.ofNat 64 (natOfBytes [b, family, group, dev]) := by
  rw [fcWord]
  congr 1
  simp only [natOfBytes]
  omega

/-- A command that takes the fields of format AD is read from an AD word with those fields. -/
theorem decode_adWord {op : Opcode} {make : List Byte → Byte → Instr} (hformat : op.format = .fAD)
    (hmake : ∀ w, op.withOperands w = make (dipField w) (adChan w)) {d0 d1 d2 d3 d4 chan : Byte} :
    decode (adWord op.byte.toNat d0 d1 d2 d3 d4 chan) = .ok (make [d0, d1, d2, d3, d4] chan) := by
  have hfield := field8_ofNat_natOfBytes (bs := [op.byte, d0, d1, d2, d3, d4, chan]) (by simp)
  have hdip : dipField (BitVec.ofNat 64 (natOfBytes [op.byte, d0, d1, d2, d3, d4, chan])) = [d0, d1, d2, d3, d4] := by
    rw [dipField, hfield 1 rfl, hfield 2 rfl, hfield 3 rfl, hfield 4 rfl, hfield 5 rfl]
  have hchan : adChan (BitVec.ofNat 64 (natOfBytes [op.byte, d0, d1, d2, d3, d4, chan])) = chan := hfield 6 rfl
  rw [adWord_eq, decode_ofNat_natOfBytes (by rw [hformat]; rfl), hmake, hdip, hchan]

/-- A command that takes the fields of format GB is read from a GB word with those fields. -/
theorem decode_gbWord {op : Opcode} {make : Byte → Byte → Instr} (hformat : op.format = .fGB)
    (hmake : ∀ w, op.withOperands w = make (field8 w 8) (field8 w 16)) {group chan : Byte} :
    decode (gbWord op.byte.toNat group chan) = .ok (make group chan) := by
  have hfield := field8_ofNat_natOfBytes (bs := [op.byte, group, chan]) (by simp)
  rw [gbWord_eq, decode_ofNat_natOfBytes (by rw [hformat]; rfl), hmake, hfield 1 rfl, hfield 2 rfl]

/-- A command that takes the fields of format FC is read from an FC word with those fields. -/
theorem decode_fcWord {op : Opcode} {make : Byte → Byte → Byte → Instr} (hformat : op.format = .fFC)
    (hmake : ∀ w, op.withOperands w = make (field8 w 8) (field8 w 16) (field8 w 24)) {family group dev : Byte} :
    decode (fcWord op.byte.toNat family group dev) = .ok (make family group dev) := by
  have hfield := field8_ofNat_natOfBytes (bs := [op.byte, family, group, dev]) (by simp)
  rw [fcWord_eq, decode_ofNat_natOfBytes (by rw [hformat]; rfl), hmake, hfield 1 rfl, hfield 2 rfl, hfield 3 rfl]

/-- Settles O56: each of the sixteen commands is its opcode's reading of an AD, GB or FC word. -/
theorem operandsStandWhereTheFormatsPutThem : Obligations.OperandsStandWhereTheFormatsPutThem := by
  refine ⟨fun d0 d1 d2 d3 d4 chan => ?ad, fun group chan => ?gb, fun family group dev => ?fc⟩
  case ad => exact ⟨
    decode_adWord (op := .swoffA) rfl fun _ => rfl,
    decode_adWord (op := .swonA) rfl fun _ => rfl,
    decode_adWord (op := .swoffD) rfl fun _ => rfl,
    decode_adWord (op := .swonD) rfl fun _ => rfl,
    decode_adWord (op := .encoffA) rfl fun _ => rfl,
    decode_adWord (op := .enconA) rfl fun _ => rfl,
    decode_adWord (op := .encoffD) rfl fun _ => rfl,
    decode_adWord (op := .enconD) rfl fun _ => rfl⟩
  case gb => exact ⟨
    decode_gbWord (op := .swoffB) rfl fun _ => rfl,
    decode_gbWord (op := .swonB) rfl fun _ => rfl,
    decode_gbWord (op := .encoffB) rfl fun _ => rfl,
    decode_gbWord (op := .enconB) rfl fun _ => rfl⟩
  case fc => exact ⟨
    decode_fcWord (op := .swoffC) rfl fun _ => rfl,
    decode_fcWord (op := .swonC) rfl fun _ => rfl,
    decode_fcWord (op := .encoffC) rfl fun _ => rfl,
    decode_fcWord (op := .enconC) rfl fun _ => rfl⟩

end Sys2Proof.Machine
end

section
/-! SUPPORT. A command and its word (30_encoding.md R76, R78): a well-formed command's operands are read back from the
bytes of its word, and a decoded word is the bytes of its command. -/

namespace Sys2Proof

/-- A well-formed command's operand bytes fill the bits of its format. -/
theorem operandBytes_fill {i : Instr} (h : i.wf = true) :
    8 * (1 + i.operandBytes.length) = i.opcode.format.usedBits := by
  cases i with
  | swonA dip chan | swoffA dip chan | swonD dip chan | swoffD dip chan
  | enconA dip chan | encoffA dip chan | enconD dip chan | encoffD dip chan =>
    exact Laws.EncodedWord.adBytes_fill (beq_iff_eq.1 h)
  | _ => rfl

/-- Operand byte `k` of a command stands at bit `8(k+1)` of its word. -/
theorem field8_encode_operand {i : Instr} (h : i.wf = true) (k : Nat) {b : Byte}
    (hb : i.operandBytes[k]? = some b) : field8 (encode i) (8 * (k + 1)) = b := by
  have hfill := operandBytes_fill h
  have hused : i.opcode.format.usedBits ≤ 64 := by cases i.opcode <;> decide
  exact field8_ofNat_natOfBytes (bs := i.opcode.byte :: i.operandBytes) (by rw [List.length_cons]; omega) (k + 1) hb

/-- A field of a field is a field. -/
theorem extractLsb'_extractLsb' {n a m s l : Nat} (x : BitVec n) (h : s + l ≤ m) :
    (x.extractLsb' a m).extractLsb' s l = x.extractLsb' (a + s) l := by
  ext i hi
  have hlt : s + i < m := by omega
  simp [hlt, Nat.add_assoc]

/-- The 16-bit operand of a word is its bytes 1 and 2. -/
theorem bytesOf16_field16 (w : CmdWord) : bytesOf16 (field16 w) = [field8 w 8, field8 w 16] := by
  simp [bytesOf16, field16, field8, extractLsb'_extractLsb']

/-- The 24-bit operand of a word is its bytes 1, 2 and 3. -/
theorem bytesOf24_field24 (w : CmdWord) : bytesOf24 (field24 w) = [field8 w 8, field8 w 16, field8 w 24] := by
  simp [bytesOf24, field24, field8, extractLsb'_extractLsb']

theorem bytesOf16_injective : Function.Injective bytesOf16 := by
  intro u v h
  simp only [bytesOf16, List.cons.injEq, and_true, ← BitVec.toNat_inj, BitVec.extractLsb'_toNat,
    Nat.shiftRight_eq_div_pow] at h
  bv_omega

theorem bytesOf24_injective : Function.Injective bytesOf24 := by
  intro u v h
  simp only [bytesOf24, List.cons.injEq, and_true, ← BitVec.toNat_inj, BitVec.extractLsb'_toNat,
    Nat.shiftRight_eq_div_pow] at h
  bv_omega

/-- The fields of format AD are read back from the operand bytes. -/
theorem adFields_encode {i : Instr} {dip : List Byte} {chan : Byte} (h : i.wf = true) (hdip : dipFits dip = true)
    (hbytes : i.operandBytes = dip ++ [chan]) : dipField (encode i) = dip ∧ adChan (encode i) = chan := by
  have hread := field8_encode_operand h
  match dip, beq_iff_eq.1 hdip with
  | [d0, d1, d2, d3, d4], _ =>
    rw [hbytes] at hread
    exact ⟨by rw [dipField, hread 0 rfl, hread 1 rfl, hread 2 rfl, hread 3 rfl, hread 4 rfl], hread 5 rfl⟩

theorem field16_encode {i : Instr} {v : Half} (h : i.wf = true) (hbytes : i.operandBytes = bytesOf16 v) :
    field16 (encode i) = v := by
  have hread := field8_encode_operand h
  rw [hbytes] at hread
  apply bytesOf16_injective
  rw [bytesOf16_field16, hread 0 rfl, hread 1 rfl, bytesOf16]

theorem field24_encode {i : Instr} {v : CodeField} (h : i.wf = true) (hbytes : i.operandBytes = bytesOf24 v) :
    field24 (encode i) = v := by
  have hread := field8_encode_operand h
  rw [hbytes] at hread
  apply bytesOf24_injective
  rw [bytesOf24_field24, hread 0 rfl, hread 1 rfl, hread 2 rfl, bytesOf24]

/-- A well-formed command is its mnemonic with the operand fields of its own word. -/
theorem withOperands_encode {i : Instr} (h : i.wf = true) : i.opcode.withOperands (encode i) = i := by
  have hread := field8_encode_operand h
  cases i with
  | setProfile n | enableTx n => simp only [Instr.opcode, Opcode.withOperands, hread 0 rfl]
  | setPulseLen v | setRepeat v => simp only [Instr.opcode, Opcode.withOperands, field16_encode h rfl]
  | disableTx => rfl
  | sendTristate word => simp only [Instr.opcode, Opcode.withOperands, field24_encode h rfl]
  | swonB | swoffB | enconB | encoffB =>
    simp only [Instr.opcode, Opcode.withOperands, hread 0 rfl, hread 1 rfl]
  | swonC | swoffC | enconC | encoffC =>
    simp only [Instr.opcode, Opcode.withOperands, hread 0 rfl, hread 1 rfl, hread 2 rfl]
  | swonA | swoffA | swonD | swoffD | enconA | encoffA | enconD | encoffD =>
    obtain ⟨hdip, hchan⟩ := adFields_encode h h rfl
    simp only [Instr.opcode, Opcode.withOperands, hdip, hchan]

/-- Settles O14: the word of a command has its opcode and no bit above its format, and the command's operands are
the fields of that word. -/
theorem decodeOfEncodeIsTheCommand : Obligations.DecodeOfEncodeIsTheCommand := by
  intro i h
  have hdecode : decode (encode i) = .ok (i.opcode.withOperands (encode i)) :=
    decode_ofNat_natOfBytes (operandBytes_fill h)
  rw [hdecode, withOperands_encode h]

/-! The other direction: the first bytes of a word are the word modulo a power of 256. -/

/-- The first `n` bytes of a word, byte 0 first. -/
def wordBytes (w : CmdWord) (n : Nat) : List Byte := (List.range n).map fun k => field8 w (8 * k)

theorem natOfBytes_append_singleton (bs : List Byte) (b : Byte) :
    natOfBytes (bs ++ [b]) = natOfBytes bs + 256 ^ bs.length * b.toNat := by
  induction bs with
  | nil => simp [natOfBytes]
  | cons c bs ih =>
    simp only [List.cons_append, natOfBytes, ih, List.length_cons]
    ring

theorem natOfBytes_wordBytes (w : CmdWord) (n : Nat) : natOfBytes (wordBytes w n) = w.toNat % 256 ^ n := by
  induction n with
  | zero => simp [wordBytes, natOfBytes, Nat.mod_one]
  | succ n ih =>
    have hsplit : wordBytes w (n + 1) = wordBytes w n ++ [field8 w (8 * n)] := by
      simp [wordBytes, List.range_succ]
    have hlen : (wordBytes w n).length = n := by simp [wordBytes]
    rw [hsplit, natOfBytes_append_singleton, ih, hlen, field8_toNat, Nat.pow_mul, Nat.mod_pow_succ]

@[simp] theorem opcode_withOperands (op : Opcode) (w : CmdWord) : (op.withOperands w).opcode = op := by
  cases op <;> rfl

theorem wf_withOperands (op : Opcode) (w : CmdWord) : (op.withOperands w).wf = true := by
  cases op <;> rfl

/-- The opcode and the operands that a mnemonic reads from a word are the bytes of its format. -/
theorem bytes_withOperands {op : Opcode} {w : CmdWord} (h : field8 w 0 = op.byte) :
    op.byte :: (op.withOperands w).operandBytes = wordBytes w (op.format.usedBits / 8) := by
  rw [← h]
  cases op with
  | setPulseLen | setRepeat => exact congrArg _ (bytesOf16_field16 w)
  | sendTristate => exact congrArg _ (bytesOf24_field24 w)
  | _ => rfl

/-- Settles O15: a decoded word has no bit above its format, so it is the number of its bytes, and these are its
command's. -/
theorem encodeOfDecodeIsTheWord : Obligations.EncodeOfDecodeIsTheWord := by
  intro w i h
  obtain ⟨op, hbyte, hlt, rfl⟩ := decode_eq_ok_iff.1 h
  refine ⟨wf_withOperands op w, ?_⟩
  have hbytes : 2 ^ op.format.usedBits = 256 ^ (op.format.usedBits / 8) := by cases op <;> rfl
  rw [encode, opcode_withOperands, bytes_withOperands hbyte, natOfBytes_wordBytes, ← hbytes, Nat.mod_eq_of_lt hlt,
    BitVec.ofNat_toNat, BitVec.setWidth_eq]

end Sys2Proof
end

section
/-! SUPPORT. The opcode table and the words it does not cover (30_encoding.md R77 to R79). -/

namespace Sys2Proof

/-- A word, as a number, is below a power of two exactly where every bit from there upward is 0. -/
theorem toNat_lt_two_pow_iff {w : CmdWord} {n : Nat} :
    w.toNat < 2 ^ n ↔ ∀ b, n ≤ b → b < 64 → w.getLsbD b = false := by
  constructor
  · intro h b hnb _
    exact Nat.testBit_lt_two_pow (h.trans_le (Nat.pow_le_pow_right (by decide) hnb))
  · intro h
    apply Nat.lt_pow_two_of_testBit
    intro b hnb
    by_cases hb : b < 64
    · exact h b hnb hb
    · exact BitVec.getLsbD_of_ge w b (Nat.le_of_not_lt hb)

/-- A mnemonic is read from a word exactly where its opcode is the low byte and every reserved bit is 0. -/
theorem decode_eq_ok_withOperands_iff {w : CmdWord} {op : Opcode} : decode w = .ok (op.withOperands w) ↔
    (field8 w 0 = op.byte ∧ ∀ b, op.format.usedBits ≤ b → b < 64 → w.getLsbD b = false) := by
  rw [decode_eq_ok_iff, ← toNat_lt_two_pow_iff]
  constructor
  · rintro ⟨op', hbyte, hlt, h⟩
    obtain rfl : op = op' := by simpa using congrArg Instr.opcode h
    exact ⟨hbyte, hlt⟩
  · rintro ⟨hbyte, hlt⟩
    exact ⟨op, hbyte, hlt, rfl⟩

/-- The bits of a word that a format fixes: the opcode byte and the reserved bits (R76). -/
def Format.fixedBits (f : Format) : CmdWord := (BitVec.allOnes 8).setWidth 64 ||| BitVec.allOnes 64 <<< f.usedBits

theorem getLsbD_fixedBits {f : Format} {k : Nat} (hk : k < 64) :
    f.fixedBits.getLsbD k = (decide (k < 8) || !decide (k < f.usedBits)) := by
  have hshift : k - f.usedBits < 64 := by omega
  rw [Format.fixedBits, BitVec.getLsbD_or, BitVec.getLsbD_setWidth, BitVec.getLsbD_shiftLeft, BitVec.getLsbD_allOnes,
    BitVec.getLsbD_allOnes]
  simp [hk, hshift]

/-- The low byte of a word is a byte where it has its bits. -/
theorem field8_zero_eq_iff {w : CmdWord} {b : Byte} :
    field8 w 0 = b ↔ ∀ k, k < 8 → w.getLsbD k = b.getLsbD k := by
  constructor
  · rintro rfl k hk
    simp [field8, hk]
  · intro h
    exact BitVec.eq_of_getLsbD_eq fun k hk => by simpa [field8, hk] using h k hk

/-- The fixed bits of a word are an opcode byte and zeros exactly where its low byte is that opcode and every reserved
bit is 0. -/
theorem and_fixedBits_eq_iff {f : Format} {w : CmdWord} {b : Byte} : w &&& f.fixedBits = b.setWidth 64 ↔
    (field8 w 0 = b ∧ ∀ k, f.usedBits ≤ k → k < 64 → w.getLsbD k = false) := by
  have hused : 8 ≤ f.usedBits := by cases f <;> decide
  have hbit : ∀ k < 64, ((w &&& f.fixedBits).getLsbD k = (b.setWidth 64).getLsbD k ↔
      (k < 8 → w.getLsbD k = b.getLsbD k) ∧ (f.usedBits ≤ k → w.getLsbD k = false)) := by
    intro k hk
    rw [BitVec.getLsbD_and, getLsbD_fixedBits hk, BitVec.getLsbD_setWidth]
    by_cases hlow : k < 8
    · have hnot : ¬ f.usedBits ≤ k := by omega
      simp [hk, hlow, hnot]
    · have hzero : b.getLsbD k = false := BitVec.getLsbD_of_ge b k (Nat.le_of_not_lt hlow)
      simp [hlow, hzero]
      cases w.getLsbD k <;> simp
  constructor
  · intro h
    have hbits := fun k hk => (hbit k hk).1 (by rw [h])
    exact ⟨field8_zero_eq_iff.2 fun k hk => (hbits k (by omega)).1 hk, fun k hk hlt => (hbits k hlt).2 hk⟩
  · rintro ⟨hbyte, hclear⟩
    exact BitVec.eq_of_getLsbD_eq fun k hk =>
      (hbit k hk).2 ⟨field8_zero_eq_iff.1 hbyte k, fun hused => hclear k hused hk⟩

/-- Every row fixes the opcode and the reserved bits of its mnemonic, and no other (R77). -/
theorem opcodeTable_rows : ∀ r ∈ opcodeTable, r.mask = r.op.format.fixedBits ∧ r.pattern = r.op.byte.setWidth 64 := by
  decide

/-- The opcode table has a row for every mnemonic. -/
theorem exists_row (op : Opcode) : ∃ r ∈ opcodeTable, r.op = op := by
  cases op <;> decide

/-- A mnemonic has one row. -/
theorem row_unique : ∀ r ∈ opcodeTable, ∀ r' ∈ opcodeTable, r.op = r'.op → r = r' := by
  decide

/-- A row covers a word exactly where the decoder reads the row's mnemonic from it: the two forms of R78. -/
theorem covers_iff_decode {r : OpcodeRow} (hr : r ∈ opcodeTable) {w : CmdWord} :
    r.covers w ↔ decode w = .ok (r.op.withOperands w) := by
  obtain ⟨hmask, hpattern⟩ := opcodeTable_rows r hr
  rw [OpcodeRow.covers, hmask, hpattern, and_fixedBits_eq_iff, decode_eq_ok_withOperands_iff]

/-- A decoded command is read from its word by its own mnemonic. -/
theorem eq_withOperands_of_decode {w : CmdWord} {i : Instr} (h : decode w = .ok i) : i = i.opcode.withOperands w := by
  obtain ⟨op, -, -, rfl⟩ := decode_eq_ok_iff.1 h
  rw [opcode_withOperands]

/-- A word that decodes is covered by the row of its mnemonic. -/
theorem exists_row_of_decode {w : CmdWord} {i : Instr} (h : decode w = .ok i) :
    ∃ r ∈ opcodeTable, r.covers w ∧ r.op = i.opcode := by
  obtain ⟨r, hr, hop⟩ := exists_row i.opcode
  refine ⟨r, hr, (covers_iff_decode hr).2 ?_, hop⟩
  rw [hop, ← eq_withOperands_of_decode h, h]

/-- Settles O13: covering by a row is decoding to its mnemonic, every mnemonic has exactly one row, and a word
decodes to one command. -/
theorem decodeIsTheOpcodeTable : Obligations.DecodeIsTheOpcodeTable := by
  refine ⟨fun w op => decode_eq_ok_withOperands_iff, fun w i h => ⟨eq_withOperands_of_decode h, exists_row_of_decode h⟩,
    fun w r hr => (covers_iff_decode hr).1, fun w r hr r' hr' h h' => ?unique, fun w => ⟨?refused, ?uncovered⟩⟩
  case unique =>
    rw [covers_iff_decode hr] at h
    rw [covers_iff_decode hr', h, Except.ok.injEq] at h'
    exact row_unique r hr r' hr' (by simpa using congrArg Instr.opcode h')
  case refused =>
    rintro ⟨e, he⟩ r hr h
    rw [covers_iff_decode hr, he] at h
    cases h
  case uncovered =>
    intro h
    cases hw : decode w with
    | error e => exact ⟨e, rfl⟩
    | ok i =>
      obtain ⟨r, hr, hcovers, -⟩ := exists_row_of_decode hw
      exact absurd hcovers (h r hr)

/-- The unassigned opcodes (R79). -/
theorem ofByte_eq_none_iff {b : Byte} : Opcode.ofByte b = none ↔
    (b.toNat = 0 ∨ (0x07 ≤ b.toNat ∧ b.toNat ≤ 0x0F) ∨ (0x18 ≤ b.toNat ∧ b.toNat ≤ 0x1F) ∨ 0x28 ≤ b.toNat) := by
  decide +revert

/-- The two kinds of illegal word (R79). -/
theorem decode_eq_error_iff {w : CmdWord} : (∃ e, decode w = .error e) ↔
    (Opcode.ofByte (field8 w 0) = none ∨
      ∃ op, Opcode.ofByte (field8 w 0) = some op ∧ op.format.reservedClear w = false) := by
  unfold decode
  cases Opcode.ofByte (field8 w 0) with
  | none => simp
  | some op => cases h : op.format.reservedClear w <;> simp [h]

/-- A reserved bit of a format is 1. -/
theorem reservedClear_eq_false_iff {f : Format} {w : CmdWord} :
    f.reservedClear w = false ↔ ∃ b, f.usedBits ≤ b ∧ b < 64 ∧ w.getLsbD b = true := by
  rw [← Bool.not_eq_true, reservedClear_iff, toNat_lt_two_pow_iff]
  push Not
  simp

end Sys2Proof

namespace Sys2Proof.Machine

open Sys2Proof

/-- A word that does not decode writes `ILLEGAL_CMD` and nothing else (R79). -/
theorem acceptWord_of_error {w : CmdWord} {e : DecodeError} (h : decode w = .error e) (s : State) :
    acceptWord w s = .next (raiseResult .illegalCmd s) := by
  simp [acceptWord, h]

/-- Settles O17: an illegal word's edge raises the result code alone, and the illegal words are those of an unassigned
opcode byte or with a reserved bit set. -/
theorem illegalWordsOnlyWriteTheResult : Obligations.IllegalWordsOnlyWriteTheResult := by
  constructor
  · intro s e haccepts herror
    rw [step_of_accepts haccepts, acceptWord_of_error herror]
    rfl
  · intro w
    have hlow : w.toNat % 256 = (field8 w 0).toNat := by rw [field8_toNat, Nat.pow_zero, Nat.div_one]
    simp only [decode_eq_error_iff, ofByte_eq_none_iff, ofByte_eq_some_iff, reservedClear_eq_false_iff, hlow,
      BitVec.toNat_inj]

end Sys2Proof.Machine
end

section
/-! SUPPORT. Code words as strings of symbol codes, two bits a symbol (30_encoding.md R72, R73, R85). -/

namespace Sys2Proof.Machine

open Sys2Proof

/-- The weights of R72: symbol `i` counts `4^i`. -/
theorem packNat_eq_sum (w : List TriSym) :
    packNat w = ((List.range w.length).map fun i => symCode (w.getD i .s0) * 4 ^ i).sum := by
  induction w with
  | nil => rfl
  | cons a w ih =>
    rw [packNat, ih, List.length_cons, List.sum_range_succ', ← List.sum_map_mul_left]
    simp [Nat.pow_succ', Nat.mul_left_comm]

/-- Symbol field `i` of a packed string holds the code of symbol `i` (R72). -/
theorem symField_pack_getD {w : List TriSym} (hw : w.length = 12) {i : Nat} (hi : i < 12) :
    (symField (pack w) i).toNat = symCode (w.getD i .s0) := by
  have hlt : i < w.length := by omega
  rw [symField_pack hw i hlt, List.getD_eq_getElem _ _ hlt]

/-- Settles O18: the packed string is the number whose base-4 digits are the codes of its symbols. -/
theorem codeWordsArePackedTwoBitsASymbol : Obligations.CodeWordsArePackedTwoBitsASymbol := by
  refine ⟨⟨rfl, rfl, rfl, rfl⟩, symOfCode_symCode, fun w hw => ⟨?_, fun i => symField_pack_getD hw⟩, by decide⟩
  rw [pack_toNat hw, packNat_eq_sum, hw]

/-- A field is well-formed where no symbol field holds the reserved code (R73). -/
theorem wellFormedField_iff {f : CodeField} : wellFormedField f = true ↔ ∀ i, i < 12 → symField f i ≠ 3#2 := by
  simp [wellFormedField]

/-- Unpacking fails exactly where some symbol field holds the reserved code (R73). -/
theorem unpack_eq_none_iff {f : CodeField} : unpack f = none ↔ ∃ i, i < 12 ∧ symField f i = 3#2 := by
  simp [unpack, allPresent_eq_none_iff, symOfCode_eq_none_iff]

/-- A 2-bit code is read as the symbol that has it as its number (R72). -/
theorem symOfCode_eq_some_iff_toNat {c : BitVec 2} {a : TriSym} : symOfCode c = some a ↔ symCode a = c.toNat := by
  cases a <;> decide +revert

/-- Unpacking reads the string of 12 symbols whose codes the symbol fields hold (R73). -/
theorem unpack_eq_some_iff_codes {f : CodeField} {w : List TriSym} : unpack f = some w ↔
    w.length = 12 ∧ ∀ i, i < 12 → symCode (w.getD i .s0) = (symField f i).toNat := by
  rw [unpack_eq_some_iff, List.ext_getElem_iff]
  simp only [List.length_map, List.length_range, List.getElem_map, List.getElem_range, symOfCode_eq_some_iff_toNat]
  rw [eq_comm (a := 12)]
  refine and_congr_right fun hlen => forall_congr' fun i => ?_
  constructor
  · intro h hi
    have hlt : i < w.length := by omega
    rw [List.getD_eq_getElem _ _ hlt]
    exact h hi hlt
  · intro h hi hlt
    rw [← h hi, List.getD_eq_getElem _ _ hlt]

/-- Settles O19: unpacking reads the symbol of each field, which all but the reserved code have. -/
theorem wellFormedFieldsAreTheCodeWords : Obligations.WellFormedFieldsAreTheCodeWords := by
  refine ⟨fun f => wellFormedField_iff, fun f h => ?decodes, fun f h => ?refused, fun w hw => ?roundTrip⟩
  case decodes =>
    obtain ⟨w, hw⟩ : ∃ w, unpack f = some w := by
      rw [← Option.ne_none_iff_exists', Ne, unpack_eq_none_iff]
      simpa using wellFormedField_iff.1 h
    exact ⟨w, hw, unpack_eq_some_iff_codes.1 hw⟩
  case refused =>
    rw [← Bool.not_eq_true, wellFormedField_iff] at h
    simpa [unpack_eq_none_iff] using h
  case roundTrip => exact unpack_eq_some_iff_codes.2 ⟨hw, fun i hi => (symField_pack_getD hw hi).symm⟩

/-- Every symbol field of the invalid pattern holds the reserved code (R85). -/
theorem symField_invalidPattern {i : Nat} (hi : i < 12) : symField invalidPattern i = 3#2 := by
  revert i
  decide

/-- A packed string is not the invalid pattern: its symbol fields hold no reserved code (R85). -/
theorem pack_ne_invalidPattern {w : List TriSym} (hw : w.length = 12) : pack w ≠ invalidPattern := by
  intro h
  have hlegal := symField_pack_legal hw (i := 0) (by decide)
  rw [h] at hlegal
  revert hlegal
  decide

/-- Settles O20: no encoder result packs to the reserved codes, and both writers of the pattern leave it in
`LAST_WORD`. -/
theorem invalidPatternIsNoCodeWord : Obligations.InvalidPatternIsNoCodeWord := by
  refine ⟨fun i => symField_invalidPattern, by decide, fun p i w h =>
    pack_ne_invalidPattern (encoderResult_valid_length h), fun i s h => ?_, fun s h => ⟨_, step_of_reset h, rfl⟩⟩
  obtain ⟨t, ht, -, -, -, -, -, hword, -⟩ := exec_latches h
  exact ⟨t, ht, hword⟩

end Sys2Proof.Machine
end

section
/-! SUPPORT. The operands of assembly lines and source operations (30_encoding.md R74, R82, R83): the field each
argument fills, or that it fits none; and the command they make. -/

namespace Sys2Proof.Machine

open Sys2Proof

/-- The `n`-bit field an integer argument fills, none where it does not fit (R83). -/
def fieldOfInt (n : Nat) (v : Int) : Option (BitVec n) := if 0 ≤ v ∧ v < 2 ^ n then some (.ofInt n v) else none

theorem fieldOfInt_of_fits {n : Nat} {v : Int} (h : fitsField n v) : fieldOfInt n v = some (.ofInt n v) := if_pos h

theorem fieldOfInt_of_not_fits {n : Nat} {v : Int} (h : ¬ fitsField n v) : fieldOfInt n v = none := if_neg h

/-- Reading a natural number first and checking its width then is filling the field. -/
theorem natArg_bind_width (n : Nat) (v : Int) :
    ((natArg v).bind fun m => if m < 2 ^ n then some (BitVec.ofNat n m) else none) = fieldOfInt n v := by
  unfold natArg fieldOfInt
  by_cases hv : 0 ≤ v
  · obtain ⟨m, rfl⟩ := Int.eq_ofNat_of_zero_le hv
    have hlt : m < 2 ^ n ↔ (m : Int) < 2 ^ n := by exact_mod_cast Iff.rfl
    simp [hlt]
  · simp [hv]

theorem natArg_bind_byteArg (v : Int) : (natArg v).bind byteArg = fieldOfInt 8 v := natArg_bind_width 8 v

theorem natArg_bind_halfArg (v : Int) : (natArg v).bind halfArg = fieldOfInt 16 v := natArg_bind_width 16 v

/-- The five codes a DIP text fills a DIP field with, none where it does not fit (R83). -/
def dipOfText (d : List Char) : Option (List Byte) := (allPresent (d.map charByte)).bind dipArg

theorem charByte_eq_none_iff {c : Char} : charByte c = none ↔ ¬ c.toNat < 256 := by
  simp [charByte]

theorem charByte_of_lt {c : Char} (h : c.toNat < 256) : charByte c = some (.ofNat 8 c.toNat) := if_pos h

theorem allPresent_charByte {d : List Char} (h : ∀ c ∈ d, c.toNat < 256) :
    allPresent (d.map charByte) = some (charCodes d) := by
  rw [allPresent_eq_some_iff, charCodes, List.map_map]
  exact List.map_congr_left fun c hc => charByte_of_lt (h c hc)

theorem dipOfText_of_fits {d : List Char} (h : fitsDip d) : dipOfText d = some (charCodes d) := by
  obtain ⟨hlen, hcodes⟩ := h
  have hcodesLen : (charCodes d).length = 5 := by rw [charCodes, List.length_map, hlen]
  rw [dipOfText, allPresent_charByte hcodes]
  exact if_pos hcodesLen

theorem dipOfText_of_not_fits {d : List Char} (h : ¬ fitsDip d) : dipOfText d = none := by
  by_cases hcodes : ∀ c ∈ d, c.toNat < 256
  · have hlen : (charCodes d).length ≠ 5 := by
      rw [charCodes, List.length_map]
      exact fun hlen => h ⟨hlen, hcodes⟩
    rw [dipOfText, allPresent_charByte hcodes]
    exact if_neg hlen
  · have hnone : allPresent (d.map charByte) = none := by
      rw [allPresent_eq_none_iff, List.mem_map]
      simpa [charByte_eq_none_iff] using hcodes
    rw [dipOfText, hnone]
    rfl

/-! A command of several arguments is made of the fields they fill. -/

theorem adArgs_eq (make : List Byte → Byte → Instr) (d : List Byte) (c : Nat) :
    adArgs make d c = (dipArg d).bind fun d => (byteArg c).map (make d) := by
  unfold adArgs
  cases dipArg d <;> cases byteArg c <;> rfl

theorem gbArgs_eq (make : Byte → Byte → Instr) (g c : Nat) :
    gbArgs make g c = (byteArg g).bind fun g => (byteArg c).map (make g) := by
  unfold gbArgs
  cases byteArg g <;> cases byteArg c <;> rfl

theorem fcArgs_eq (make : Byte → Byte → Byte → Instr) (f : Option Byte) (g d : Nat) :
    fcArgs make f g d = f.bind fun f => (byteArg g).bind fun g => (byteArg d).map (make f g) := by
  unfold fcArgs
  cases f <;> cases byteArg g <;> cases byteArg d <;> rfl

theorem adSource_eq (make : List Byte → Byte → Instr) (d : List Char) (c : Int) :
    adSource make d c = (dipOfText d).bind fun d => (fieldOfInt 8 c).map (make d) := by
  rw [dipOfText, ← natArg_bind_byteArg, adSource]
  cases allPresent (d.map charByte) <;> cases natArg c <;> simp [adArgs_eq]

theorem gbSource_eq (make : Byte → Byte → Instr) (g c : Int) :
    gbSource make g c = (fieldOfInt 8 g).bind fun g => (fieldOfInt 8 c).map (make g) := by
  rw [← natArg_bind_byteArg, ← natArg_bind_byteArg, gbSource]
  cases natArg g <;> cases natArg c <;> simp [gbArgs_eq]

theorem fcSource_eq (make : Byte → Byte → Byte → Instr) (f : Char) (g d : Int) :
    fcSource make f g d =
      (charByte f).bind fun f => (fieldOfInt 8 g).bind fun g => (fieldOfInt 8 d).map (make f g) := by
  rw [← natArg_bind_byteArg, ← natArg_bind_byteArg, fcSource]
  cases natArg g <;> cases natArg d <;> simp [fcArgs_eq]

theorem byteSource_eq (make : Byte → Instr) (v : Int) :
    ((natArg v).bind fun n => (byteArg n).map make) = (fieldOfInt 8 v).map make := by
  rw [← natArg_bind_byteArg, Option.map_bind]
  rfl

theorem halfSource_eq (make : Half → Instr) (v : Int) :
    ((natArg v).bind fun n => (halfArg n).map make) = (fieldOfInt 16 v).map make := by
  rw [← natArg_bind_halfArg, Option.map_bind]
  rfl

/-! Each form of operation, with arguments that fit and with one that does not (R83). -/

section Forms

variable {d : List Char} {f : Char} {g c : Int}

theorem adSource_of_fits {make : List Byte → Byte → Instr} (hd : fitsDip d) (hc : fitsField 8 c) :
    adSource make d c = some (make (charCodes d) (.ofInt 8 c)) := by
  rw [adSource_eq, dipOfText_of_fits hd, fieldOfInt_of_fits hc]
  rfl

theorem adSource_of_not_fits {make : List Byte → Byte → Instr} (h : ¬ (fitsDip d ∧ fitsField 8 c)) :
    adSource make d c = none := by
  rw [adSource_eq]
  rcases not_and_or.1 h with hd | hc
  · simp [dipOfText_of_not_fits hd]
  · simp [fieldOfInt_of_not_fits hc]

theorem gbSource_of_fits {make : Byte → Byte → Instr} (hg : fitsField 8 g) (hc : fitsField 8 c) :
    gbSource make g c = some (make (.ofInt 8 g) (.ofInt 8 c)) := by
  rw [gbSource_eq, fieldOfInt_of_fits hg, fieldOfInt_of_fits hc]
  rfl

theorem gbSource_of_not_fits {make : Byte → Byte → Instr} (h : ¬ (fitsField 8 g ∧ fitsField 8 c)) :
    gbSource make g c = none := by
  rw [gbSource_eq]
  rcases not_and_or.1 h with hg | hc
  · simp [fieldOfInt_of_not_fits hg]
  · simp [fieldOfInt_of_not_fits hc]

theorem fcSource_of_fits {make : Byte → Byte → Byte → Instr} (hf : f.toNat < 256) (hg : fitsField 8 g)
    (hc : fitsField 8 c) : fcSource make f g c = some (make (.ofNat 8 f.toNat) (.ofInt 8 g) (.ofInt 8 c)) := by
  rw [fcSource_eq, charByte_of_lt hf, fieldOfInt_of_fits hg, fieldOfInt_of_fits hc]
  rfl

theorem fcSource_of_not_fits {make : Byte → Byte → Byte → Instr}
    (h : ¬ (f.toNat < 256 ∧ fitsField 8 g ∧ fitsField 8 c)) : fcSource make f g c = none := by
  rw [fcSource_eq]
  rcases not_and_or.1 h with hf | h
  · simp [charByte_eq_none_iff.2 hf]
  rcases not_and_or.1 h with hg | hc
  · simp [fieldOfInt_of_not_fits hg]
  · simp [fieldOfInt_of_not_fits hc]

end Forms

/-! The word of `sendTriState`: each character writes one symbol field (R72, R82). -/

/-- The symbol field a character of a word writes, none where it writes none (R82). -/
def charField (c : Char) : Option Nat := (charByte c).bind wordChar

theorem charField_fieldChar (b : BitVec 2) : charField (fieldChar b) = some b.toNat := by
  decide +revert

/-- Characters with one 8-bit code are one character. -/
theorem eq_of_charByte_eq {c a : Char} {b : Byte} (hc : charByte c = some b) (ha : charByte a = some b) : c = a := by
  simp only [charByte, Option.ite_none_right_eq_some, Option.some.injEq] at hc ha
  obtain ⟨hclt, rfl⟩ := hc
  obtain ⟨halt, heq⟩ := ha
  apply Char.toNat_inj.1
  simpa [← BitVec.toNat_inj, Nat.mod_eq_of_lt, hclt, halt, eq_comm] using heq

/-- Only the four characters of R82 write a symbol field. -/
theorem charField_eq_none {c : Char} (h : c ≠ '0' ∧ c ≠ '1' ∧ c ≠ 'F' ∧ c ≠ 'X') : charField c = none := by
  rw [charField]
  cases hb : charByte c with
  | none => rfl
  | some b =>
    have hne : ∀ a : Char, c ≠ a → ∀ code, charByte a = some code → b ≠ code := by
      rintro a hca code ha rfl
      exact hca (eq_of_charByte_eq hb ha)
    obtain ⟨h0, h1, hF, hX⟩ := h
    rw [Option.bind_some, wordChar, if_neg (hne '0' h0 char0 rfl), if_neg (hne '1' h1 char1 rfl),
      if_neg (hne 'F' hF charF rfl), if_neg (hne 'X' hX 0x58#8 rfl)]

/-- Reading all members in two steps is reading each in two steps. -/
theorem allPresent_bind_map {α β γ : Type} (f : α → Option β) (g : β → Option γ) (l : List α) :
    ((allPresent (l.map f)).bind fun r => allPresent (r.map g)) = allPresent (l.map fun a => (f a).bind g) := by
  induction l with
  | nil => rfl
  | cons a l ih =>
    rw [List.map_cons, List.map_cons]
    cases f a with
    | none => rfl
    | some b =>
      rw [Option.bind_some, allPresent_some_cons, Option.bind_map]
      cases hg : g b with
      | none => simp [Function.comp_def, hg]
      | some c => simp [Function.comp_def, hg, ← ih, Option.map_bind]

/-- The word field of a text: 12 characters that each write their symbol field (R82, R83). -/
theorem textWord_eq (w : List Char) : (allPresent (w.map charByte)).bind wordArg =
    if w.length = 12 then (allPresent (w.map charField)).map fun fs => BitVec.ofNat 24 (natOfFields fs) else none := by
  have hfields : _ = allPresent (w.map charField) := allPresent_bind_map charByte wordChar w
  cases hcodes : allPresent (w.map charByte) with
  | none =>
    rw [hcodes, Option.bind_none] at hfields
    simp [← hfields]
  | some codes =>
    have hlen : codes.length = w.length := by simpa using allPresent_length hcodes
    rw [hcodes, Option.bind_some] at hfields
    simp [← hfields, wordArg, hlen]

/-- The first symbol field is the lowest digit, base 4. -/
theorem natOfFields_eq_ofDigits (fs : List Nat) : natOfFields fs = Nat.ofDigits 4 fs := by
  induction fs with
  | nil => rfl
  | cons x fs ih => rw [natOfFields, ih, Nat.ofDigits_cons]

/-- Symbol field `i` is digit `i`. -/
theorem natOfFields_digit {fs : List Nat} (h : ∀ x ∈ fs, x < 4) {i : Nat} (hi : i < fs.length) :
    natOfFields fs / 4 ^ i % 4 = fs[i] := by
  rw [natOfFields_eq_ofDigits, Nat.ofDigits_div_pow_eq_ofDigits_drop i (by decide) fs h, Nat.ofDigits_mod_eq_head!,
    List.drop_eq_getElem_cons hi, List.head!_cons, Nat.mod_eq_of_lt (h _ (List.getElem_mem hi))]

/-- Symbol field `i` of a word is the field its character `i` writes (R72). -/
theorem symField_natOfFields {w : List (BitVec 2)} (hw : w.length = 12) {i : Nat} (hi : i < 12) :
    symField (BitVec.ofNat 24 (natOfFields (w.map BitVec.toNat))) i = w.getD i 0#2 := by
  have hfields : ∀ x ∈ w.map BitVec.toNat, x < 4 := by
    simpa using fun b _ => b.isLt
  have hlt : natOfFields (w.map BitVec.toNat) < 2 ^ 24 := by
    rw [natOfFields_eq_ofDigits]
    simpa [hw] using Nat.ofDigits_lt_base_pow_length (by decide) hfields
  have hdigit := natOfFields_digit hfields (i := i) (by simpa [hw] using hi)
  apply BitVec.eq_of_toNat_eq
  rw [symField, BitVec.extractLsb'_toNat, BitVec.toNat_ofNat, Nat.mod_eq_of_lt hlt, Nat.shiftRight_eq_div_pow,
    Nat.pow_mul, List.getD_eq_getElem _ _ (by omega)]
  simpa using hdigit

/-- Settles O55: each form of operation is its fields' command, and every argument that does not fit fills no field. -/
theorem sourceOperationsExpand : Obligations.SourceOperationsExpand := by
  refine ⟨fun g c hg hc => ?group, fun g c on h => ?noGroup, fun d c hd hc => ?dip, fun d c on h => ?noDip,
    fun f g d hf hg hd => ?family, fun f g d on h => ?noFamily,
    fun v => ⟨fun h => ?byte, fun h => ?noByte, fun h => ?half, fun h => ?noHalf⟩, rfl, fun w hw => ?word, fun w h => ?noWord⟩
  case group => exact ⟨
    gbSource_of_fits hg hc, gbSource_of_fits hg hc, gbSource_of_fits hg hc, gbSource_of_fits hg hc⟩
  case noGroup => exact ⟨gbSource_of_not_fits h, gbSource_of_not_fits h⟩
  case dip => exact ⟨
    adSource_of_fits hd hc, adSource_of_fits hd hc, adSource_of_fits hd hc, adSource_of_fits hd hc,
    adSource_of_fits hd hc, adSource_of_fits hd hc, adSource_of_fits hd hc, adSource_of_fits hd hc⟩
  case noDip => exact ⟨adSource_of_not_fits h, adSource_of_not_fits h, adSource_of_not_fits h, adSource_of_not_fits h⟩
  case family => exact ⟨
    fcSource_of_fits hf hg hd, fcSource_of_fits hf hg hd, fcSource_of_fits hf hg hd, fcSource_of_fits hf hg hd⟩
  case noFamily => exact ⟨fcSource_of_not_fits h, fcSource_of_not_fits h⟩
  case byte => simp [SourceOp.expand, byteSource_eq, fieldOfInt_of_fits h]
  case noByte => simp [SourceOp.expand, byteSource_eq, fieldOfInt_of_not_fits h]
  case half => simp [SourceOp.expand, halfSource_eq, fieldOfInt_of_fits h]
  case noHalf => simp [SourceOp.expand, halfSource_eq, fieldOfInt_of_not_fits h]
  case word =>
    have hchars : allPresent ((w.map fieldChar).map charField) = some (w.map BitVec.toNat) := by
      simp [allPresent_eq_some_iff, charField_fieldChar, Function.comp_def]
    have hlen : (w.map fieldChar).length = 12 := by rw [List.length_map, hw]
    refine ⟨_, ?_, fun i => symField_natOfFields hw⟩
    rw [SourceOp.expand, textWord_eq, if_pos hlen, hchars]
    rfl
  case noWord =>
    have hnone : (allPresent (w.map charByte)).bind wordArg = none := by
      rw [textWord_eq]
      rcases h with hlen | ⟨c, hc, hchar⟩
      · exact if_neg hlen
      · have hmem : none ∈ w.map charField := List.mem_map.2 ⟨c, hc, charField_eq_none hchar⟩
        simp [allPresent_eq_none_iff.2 hmem]
    rw [SourceOp.expand, hnone]
    rfl

/-- A line that assembles to a well-formed command is an encoding example with that command's word. -/
theorem encodingExample {line : List Char} {i : Instr} {w : CmdWord} (hline : assembleLine line = some i)
    (hwf : i.wf = true) (hencode : encode i = w) : ∃ i, assembleLine line = some i ∧ encode i = w ∧ decode w = .ok i :=
  ⟨i, hline, hencode, hencode ▸ decodeOfEncodeIsTheCommand i hwf⟩

/-- Settles O16: each line's command is named and its word computed; the word decodes to it by O14. -/
theorem encodingExamplesOfRule84 : Obligations.EncodingExamplesOfRule84 := by
  unfold Obligations.EncodingExamplesOfRule84
  simp only [List.forall_mem_cons]
  exact ⟨
    encodingExample (i := .swonB 2#8 3#8) (by decide) rfl (by decide),
    encodingExample (i := .swonA [0x31#8, 0x30#8, 0x30#8, 0x30#8, 0x30#8] 1#8) (by decide) rfl (by decide),
    encodingExample (i := .swonC 0x61#8 1#8 1#8) (by decide) rfl (by decide),
    encodingExample (i := .setProfile 2#8) (by decide) rfl (by decide),
    encodingExample (i := .setPulseLen 350#16) (by decide) rfl (by decide),
    encodingExample (i := .setRepeat 10#16) (by decide) rfl (by decide),
    encodingExample (i := .enableTx 17#8) (by decide) rfl (by decide),
    encodingExample (i := .disableTx) (by decide) rfl (by decide),
    encodingExample (i := .sendTristate 0xAA8AA2#24) (by decide) rfl (by decide),
    List.forall_mem_nil _⟩

end Sys2Proof.Machine
end

section
/-! SUPPORT. The operands of the encoders as strings (40_encoder.md R101, R102; 10_state.md R33, R34): digit by digit,
character by character, symbol by symbol. -/

namespace Sys2Proof.Machine

open Sys2Proof

/-- Digit `j` of `Bin(v, n)` is bit `n - 1 - j` of `v` (R101). -/
theorem bin_getD {v n j : Nat} (hj : j < n) : (bin v n).getD j 0 = (v.testBit (n - 1 - j)).toNat := by
  induction n generalizing v with
  | zero => omega
  | succ n ih =>
    rw [bin]
    rcases Nat.lt_succ_iff_lt_or_eq.1 hj with hlt | rfl
    · have hbit : n + 1 - 1 - j = n - 1 - j + 1 := by omega
      rw [List.getD_append _ _ _ _ (by simpa using hlt), ih hlt, hbit, Nat.testBit_succ]
    · have hbit : j + 1 - 1 - j = 0 := by omega
      rw [List.getD_append_right _ _ _ _ (by simp), hbit, Nat.toNat_testBit]
      simp

/-- Settles O21: digit `j` is bit `n - 1 - j`, which is below the cut at `n` digits. -/
theorem binRendersMostSignificantFirst : Obligations.BinRendersMostSignificantFirst := by
  refine ⟨fun v n => ⟨bin_length v n, fun j hj => ?digit⟩, rfl, rfl, rfl, rfl, fun group dev hg hd => ?index,
    fun chan hc => ?channel⟩
  case digit =>
    have hbit : (v % 2 ^ n).testBit (n - 1 - j) = v.testBit (n - 1 - j) := by
      rw [Nat.testBit_mod_two_pow, decide_eq_true (by omega), Bool.true_and]
    rw [bin_getD hj, ← hbit, Nat.toNat_testBit, Nat.shiftRight_eq_div_pow, Nat.and_one_is_mod]
  case index => omega
  case channel => omega

/-- A character that the DIP transform takes (R102). -/
def dipCharOk (acceptF : Bool) (c : Byte) : Prop := c = 0x30#8 ∨ c = 0x31#8 ∨ (c = 0x46#8 ∧ acceptF = true)

theorem dipSymbol_eq_none_iff {acceptF : Bool} {c : Byte} : dipSymbol acceptF c = none ↔ ¬ dipCharOk acceptF c := by
  unfold dipSymbol
  split_ifs with h0 h1 hF
  · exact iff_of_false nofun (not_not.2 (.inl h0))
  · exact iff_of_false nofun (not_not.2 (.inr (.inl h1)))
  · exact iff_of_false nofun (not_not.2 (.inr (.inr hF)))
  · exact iff_of_true rfl fun h => h.elim h0 fun h => h.elim h1 hF

/-- The transform answers `t` where each character becomes the symbol of `t` at its place (R102). -/
theorem dipTransform_eq_some_iff_getD {acceptF : Bool} {d : List Byte} {t : List TriSym} (hd : d.length = 5) :
    dipTransform acceptF d = some t ↔
      t.length = 5 ∧ ∀ i, i < 5 → dipSymbol acceptF (d.getD i 0#8) = some (t.getD i .s1) := by
  rw [dipTransform_eq_some_iff, and_iff_right hd, List.ext_getElem_iff]
  simp only [List.length_map, List.getElem_map, hd, eq_comm (a := 5)]
  refine and_congr_right fun ht => forall_congr' fun i => ?_
  constructor
  · intro h hi
    rw [List.getD_eq_getElem _ _ (by omega), List.getD_eq_getElem _ _ (by omega)]
    exact h hi (by omega)
  · intro h hi _
    rw [← List.getD_eq_getElem _ 0#8, ← List.getD_eq_getElem _ .s1]
    exact h hi

/-- The transform is invalid where it does not take some character (R102). -/
theorem dipTransform_eq_none_iff {acceptF : Bool} {d : List Byte} (hd : d.length = 5) :
    dipTransform acceptF d = none ↔ ∃ i, i < 5 ∧ ¬ dipCharOk acceptF (d.getD i 0#8) := by
  rw [dipTransform, if_pos hd, allPresent_eq_none_iff, List.mem_map, List.exists_mem_iff_getElem]
  simp only [dipSymbol_eq_none_iff, hd]
  refine exists_congr fun i => ?_
  constructor
  · rintro ⟨hi, h⟩
    exact ⟨hi, by rwa [List.getD_eq_getElem]⟩
  · rintro ⟨hi, h⟩
    exact ⟨hi, by rwa [List.getD_eq_getElem] at h⟩

/-- Settles O22: the symbol of each character is given by R102, and a lowercase `f` has none. -/
theorem dipTransformRule : Obligations.DipTransformRule := by
  intro acceptF d hd
  refine ⟨fun t => ?some, ?none, ?lowercase⟩
  case some =>
    rw [dipTransform_eq_some_iff_getD hd]
    simp only [dipSymbol_eq_some_iff, char0, char1, charF]
  case none =>
    rw [dipTransform_eq_none_iff hd]
    simp only [dipCharOk, not_or, not_and, Bool.not_eq_true]
  case lowercase =>
    rintro ⟨i, hi, hf⟩
    exact (dipTransform_eq_none_iff hd).2 ⟨i, hi, by rw [hf]; simp [dipCharOk]⟩

/-- A DIP string of accepted characters becomes `0` at each `'1'` and `F` elsewhere (R102). -/
theorem dipTransform_of_charOk {acceptF : Bool} {d : List Byte} (hd : d.length = 5)
    (h : ∀ j, j < 5 → dipCharOk acceptF (d.getD j 0#8)) :
    ∃ t, dipTransform acceptF d = some t ∧
      ∀ j, j < 5 → t.getD j .s1 = if d.getD j 0#8 = 0x31#8 then .s0 else .sF := by
  obtain ⟨t, ht⟩ : ∃ t, dipTransform acceptF d = some t := by
    rw [← Option.ne_none_iff_exists', Ne, dipTransform_eq_none_iff hd]
    exact fun ⟨i, hi, hbad⟩ => hbad (h i hi)
  refine ⟨t, ht, fun j hj => ?_⟩
  rcases dipSymbol_eq_some_iff.1 (((dipTransform_eq_some_iff_getD hd).1 ht).2 j hj) with
    ⟨hc, hs⟩ | ⟨hc, hs⟩ | ⟨hc, -, hs⟩ <;> rw [hc, hs] <;> rfl

/-- No DIP character becomes the symbol `1` (R108). -/
theorem s1_notMem_of_dipTransform {acceptF : Bool} {d : List Byte} {t : List TriSym}
    (h : dipTransform acceptF d = some t) : TriSym.s1 ∉ t := by
  intro hmem
  have hmap : some TriSym.s1 ∈ d.map (dipSymbol acceptF) :=
    (dipTransform_eq_some_iff.1 h).2 ▸ List.mem_map_of_mem hmem
  obtain ⟨c, -, hc⟩ := List.mem_map.1 hmap
  simp [dipSymbol_eq_some_iff] at hc

/-- `NIBBLE[n]` has its `0` at place `n` (R33). -/
theorem nibble_getD {n j : Nat} (hn : 1 ≤ n ∧ n ≤ 4) (hj : j < 4) :
    (nibble n).getD j .s1 = if j + 1 = n then .s0 else .sF := by
  obtain ⟨h1, h4⟩ := hn
  interval_cases n <;> decide +revert

/-- `POSITION[c]` has its `0` at place `c` (R34). -/
theorem position_getD {c j : Nat} (hc : 1 ≤ c ∧ c ≤ 5) (hj : j < 5) :
    (position c).getD j .s1 = if j + 1 = c then .s0 else .sF := by
  obtain ⟨h1, h5⟩ := hc
  interval_cases c <;> decide +revert

/-- The binary digits of `v`, each rendered as a symbol (R105, R106). -/
theorem map_bin_getD (f : Nat → TriSym) {v n j : Nat} (hj : j < n) :
    ((bin v n).map f).getD j .s1 = f (v.testBit (n - 1 - j)).toNat := by
  have hlt : j < (bin v n).length := by simpa using hj
  rw [List.getD_eq_getElem _ _ (by simpa using hj), List.getElem_map, ← List.getD_eq_getElem _ 0 hlt, bin_getD hj]

theorem channelDigits_getD {v n j : Nat} (hj : j < n) :
    ((bin v n).map channelSymbol).getD j .s1 = if v.testBit (n - 1 - j) then .s0 else .sF := by
  rw [map_bin_getD channelSymbol hj]
  cases v.testBit (n - 1 - j) <;> rfl

theorem indexDigits_getD {v n j : Nat} (hj : j < n) :
    ((bin v n).map indexSymbol).getD j .s1 = if v.testBit (n - 1 - j) then .sF else .s0 := by
  rw [map_bin_getD indexSymbol hj]
  cases v.testBit (n - 1 - j) <;> rfl

theorem familyCode_of_pos {p : Params} {k : Nat} {e : Sym4} (hk : 0 < k) (h : p.familyRest.toList[k - 1]? = some e) :
    familyCode p k = [e.a, e.b, e.c, e.d] := by
  obtain ⟨n, rfl⟩ : ∃ n, k = n + 1 := ⟨k - 1, by omega⟩
  have he : p.familyRest.toList.getD n ⟨.s0, .s0, .s0, .s0⟩ = e := by
    rw [List.getD_eq_getElem?_getD]
    exact congrArg (Option.getD · _) h
  rw [familyCode, he, familyString]

theorem statusSymbol_eq (on : Bool) : statusSymbol on = [if on then .sF else .s0] := by cases on <;> rfl

/-! The symbol `1` stands in no table but the family's (R108). -/

theorem s1_notMem_nibble (n : Nat) : TriSym.s1 ∉ nibble n := by
  unfold nibble
  split <;> decide

theorem s1_notMem_position (c : Nat) : TriSym.s1 ∉ position c := by
  unfold position
  split <;> decide

theorem channelSymbol_ne_s1 (b : Nat) : channelSymbol b ≠ .s1 := by
  unfold channelSymbol
  split <;> decide

theorem indexSymbol_ne_s1 (b : Nat) : indexSymbol b ≠ .s1 := by
  unfold indexSymbol
  split <;> decide

theorem s1_notMem_channelDigits (l : List Nat) : TriSym.s1 ∉ l.map channelSymbol := by simp [channelSymbol_ne_s1]

theorem s1_notMem_indexDigits (l : List Nat) : TriSym.s1 ∉ l.map indexSymbol := by simp [indexSymbol_ne_s1]

theorem s1_notMem_statusSymbol (on : Bool) : TriSym.s1 ∉ statusSymbol on := by cases on <;> decide

theorem s1_notMem_statusSuffix (on : Bool) : TriSym.s1 ∉ statusSuffix on := by cases on <;> decide

end Sys2Proof.Machine
end

section
/-! SUPPORT. The four encoders (40_encoder.md R103 to R108): a Type A or D word is cut 5+5+2, a Type B or C word
4+4+3+1, and the rules about single symbols read the segment a symbol stands in. -/

namespace Sys2Proof.Machine

open Sys2Proof

/-- The symbols of a word cut 5+5+2, as Types A and D are (R108). -/
theorem getD_cut552 {x y : List TriSym} (hx : x.length = 5) (hy : y.length = 5) (z : List TriSym) :
    (∀ j, j < 5 → (x ++ y ++ z).getD j .s1 = x.getD j .s1) ∧
    (∀ j, j < 5 → (x ++ y ++ z).getD (5 + j) .s1 = y.getD j .s1) ∧
    ∀ j, (x ++ y ++ z).getD (10 + j) .s1 = z.getD j .s1 := by
  refine ⟨fun j hj => ?_, fun j hj => ?_, fun j => ?_⟩
  · rw [List.append_assoc, List.getD_append _ _ _ _ (by omega)]
  · rw [List.append_assoc, List.getD_append_right _ _ _ _ (by omega), List.getD_append _ _ _ _ (by omega), hx,
      Nat.add_sub_cancel_left]
  · have hxy : (x ++ y).length = 10 := by rw [List.length_append, hx, hy]
    rw [List.getD_append_right _ _ _ _ (by omega), hxy, Nat.add_sub_cancel_left]

/-- The symbols of a word cut 4+4+3+1, as Types B and C are (R108). -/
theorem getD_cut4431 {x y z : List TriSym} (hx : x.length = 4) (hy : y.length = 4) (hz : z.length = 3) (a : TriSym) :
    (∀ j, j < 4 → (x ++ y ++ z ++ [a]).getD j .s1 = x.getD j .s1) ∧
    (∀ j, j < 4 → (x ++ y ++ z ++ [a]).getD (4 + j) .s1 = y.getD j .s1) ∧
    (∀ j, j < 3 → (x ++ y ++ z ++ [a]).getD (8 + j) .s1 = z.getD j .s1) ∧
    (x ++ y ++ z ++ [a]).getD 11 .s1 = a := by
  obtain ⟨x0, x1, x2, x3, rfl⟩ := List.length_eq_four.1 hx
  obtain ⟨y0, y1, y2, y3, rfl⟩ := List.length_eq_four.1 hy
  obtain ⟨z0, z1, z2, rfl⟩ := List.length_eq_three.1 hz
  refine ⟨fun j hj => ?_, fun j hj => ?_, fun j hj => ?_, rfl⟩
  all_goals interval_cases j <;> rfl

/-- The segment and the place in it of each symbol of such a word. -/
theorem place_cut4431 {j : Nat} (hj : j < 12) :
    j < 4 ∨ (∃ k, k < 4 ∧ j = 4 + k) ∨ (∃ k, k < 3 ∧ j = 8 + k) ∨ j = 11 := by
  revert j
  decide

/-- The symbols of a Type B word: `0` at the places that group, channel and an off intent name, else `F` (R103). -/
theorem typeBWord_getD {g c j : Nat} (hg : 1 ≤ g ∧ g ≤ 4) (hc : 1 ≤ c ∧ c ≤ 4) (on : Bool) (hj : j < 12) :
    (nibble g ++ nibble c ++ [.sF, .sF, .sF] ++ [if on then .sF else .s0] : List TriSym).getD j .s1 =
      if j + 1 = g ∨ j = c + 3 ∨ (j = 11 ∧ on = false) then .s0 else .sF := by
  obtain ⟨hgroup, hchan, hmiddle, hstatus⟩ :=
    getD_cut4431 (nibble_length hg) (nibble_length hc) (z := [.sF, .sF, .sF]) rfl (if on then .sF else .s0)
  obtain h | ⟨k, hk, rfl⟩ | ⟨k, hk, rfl⟩ | rfl := place_cut4431 hj
  · rw [hgroup j h, nibble_getD hg h]
    exact if_congr (by omega) rfl rfl
  · rw [hchan k hk, nibble_getD hc hk]
    exact if_congr (by omega) rfl rfl
  · rw [hmiddle k hk, if_neg (by omega)]
    interval_cases k <;> rfl
  · rw [hstatus]
    cases on with
    | false => exact (if_pos (.inr (.inr ⟨rfl, rfl⟩))).symm
    | true =>
      refine (if_neg ?_).symm
      rw [Bool.true_eq_false, and_false, or_false]
      omega

/-- Settles O23: the symbols of a Type B word are those of the two nibbles, `FFF` and the status. -/
theorem typeBEncoderRule : Obligations.TypeBEncoderRule := by
  intro group chan on
  refine ⟨fun hg1 hg4 hc1 hc4 => ?valid, fun h => encB_eq_invalid_iff.2 (by omega)⟩
  have henc := (encB_eq_valid_iff (on := on)).2 ⟨⟨hg1, hg4⟩, ⟨hc1, hc4⟩, rfl⟩
  rw [statusSymbol_eq] at henc
  exact ⟨_, henc, rfl, encB_valid_length henc, fun j => typeBWord_getD ⟨hg1, hg4⟩ ⟨hc1, hc4⟩ on⟩

/-- Settles O24: the middle segment of a Type A word is the channel's position string. -/
theorem typeAEncoderRule : Obligations.TypeAEncoderRule := by
  intro p d chan on
  refine ⟨fun t ht h1 h5 => ?valid, fun h => encA_eq_invalid_iff.2 (h.imp_right fun hc => by omega)⟩
  have henc := (encA_eq_valid_iff (on := on)).2 ⟨t, ht, ⟨h1, h5⟩, rfl⟩
  refine ⟨_, henc, rfl, encA_valid_length henc, fun j hj => ?_⟩
  rw [(getD_cut552 (dipTransform_length ht) (position_length ⟨h1, h5⟩) _).2.1 j hj, position_getD ⟨h1, h5⟩ hj]

/-- Settles O25: the middle segment of a Type D word is the channel's binary digits. -/
theorem typeDEncoderRule : Obligations.TypeDEncoderRule := by
  intro p d chan on
  refine ⟨fun t ht h1 h31 => ?valid, fun h => encD_eq_invalid_iff.2 (h.imp_right fun hc => by omega)⟩
  have henc := (encD_eq_valid_iff (on := on)).2 ⟨t, ht, ⟨h1, h31⟩, rfl⟩
  exact ⟨_, _, henc, rfl, by simp, encD_valid_length henc, fun j hj => channelDigits_getD hj⟩

/-- Settles O26: a Type C word is the family entry, the index's binary digits, `0FF` and the status. -/
theorem typeCEncoderRule : Obligations.TypeCEncoderRule := by
  intro p fam group dev on
  refine ⟨fun hf1 hf2 hg1 hg4 hd1 hd4 => ?valid, fun h => encC_eq_invalid_iff.2 (by omega)⟩
  have henc := (encC_eq_valid_iff (p := p) (on := on)).2 ⟨⟨hf1, hf2⟩, ⟨hg1, hg4⟩, ⟨hd1, hd4⟩, rfl⟩
  refine ⟨_, _, _, henc, by rw [statusSymbol_eq], familyCode_length _ _, by simp, encC_valid_length henc,
    fun h => ?first, fun e h he => ?later, fun j hj => indexDigits_getD hj⟩
  case first => rw [h]; rfl
  case later => exact familyCode_of_pos (by omega) (by rwa [Nat.sub_sub])

/-- Two words that begin with the same `n` symbols and differ in the rest (R107). -/
theorem append_differ_after {x y z : List TriSym} {n : Nat} (hx : x.length = n) (hyz : y ≠ z) :
    (x ++ y).take n = (x ++ z).take n ∧ (x ++ y).drop n ≠ (x ++ z).drop n := by
  rw [List.take_left' hx, List.take_left' hx, List.drop_left' hx, List.drop_left' hx]
  exact ⟨rfl, hyz⟩

/-- Settles O27: the two words share the address segments, and the status segments differ. -/
theorem intentOnlyChangesTheStatusSegment : Obligations.IntentOnlyChangesTheStatusSegment := by
  have hsuffix : statusSuffix true ≠ statusSuffix false := by decide
  have hsymbol : statusSymbol true ≠ statusSymbol false := by decide
  intro p d a b c
  refine ⟨⟨encA_eq_invalid_iff.trans encA_eq_invalid_iff.symm, fun v w hv hw => ?typeA⟩,
    ⟨encB_eq_invalid_iff.trans encB_eq_invalid_iff.symm, fun v w hv hw => ?typeB⟩,
    ⟨encC_eq_invalid_iff.trans encC_eq_invalid_iff.symm, fun v w hv hw => ?typeC⟩,
    ⟨encD_eq_invalid_iff.trans encD_eq_invalid_iff.symm, fun v w hv hw => ?typeD⟩⟩
  case typeA =>
    obtain ⟨t, ht, ha, rfl⟩ := encA_eq_valid_iff.1 hv
    obtain ⟨t', ht', -, rfl⟩ := encA_eq_valid_iff.1 hw
    obtain rfl : t = t' := Option.some.inj (ht.symm.trans ht')
    exact append_differ_after (by simp [dipTransform_length ht, position_length ha]) hsuffix
  case typeB =>
    obtain ⟨ha, hb, rfl⟩ := encB_eq_valid_iff.1 hv
    obtain ⟨-, -, rfl⟩ := encB_eq_valid_iff.1 hw
    exact append_differ_after (by simp [nibble_length ha, nibble_length hb]) hsymbol
  case typeC =>
    obtain ⟨-, -, -, rfl⟩ := encC_eq_valid_iff.1 hv
    obtain ⟨-, -, -, rfl⟩ := encC_eq_valid_iff.1 hw
    exact append_differ_after (by simp) hsymbol
  case typeD =>
    obtain ⟨t, ht, -, rfl⟩ := encD_eq_valid_iff.1 hv
    obtain ⟨t', ht', -, rfl⟩ := encD_eq_valid_iff.1 hw
    obtain rfl : t = t' := Option.some.inj (ht.symm.trans ht')
    exact append_differ_after (by simp [dipTransform_length ht]) hsuffix

/-- A valid Type A or Type D word is a transformed DIP string, five symbols of the channel and the status suffix, and
none of them is `1` (R104, R105, R108). -/
theorem dipWord_of_valid {p : Params} {d : List Byte} {a : Byte} {on : Bool} {w : List TriSym}
    (h : encA p d a on = .valid w ∨ encD p d a on = .valid w) :
    ∃ x y, w = x ++ y ++ statusSuffix on ∧ dipTransform p.dipAcceptF d = some x ∧ y.length = 5 ∧ TriSym.s1 ∉ y := by
  rcases h with h | h
  · obtain ⟨t, ht, ha, rfl⟩ := encA_eq_valid_iff.1 h
    exact ⟨t, _, rfl, ht, position_length ha, s1_notMem_position _⟩
  · obtain ⟨t, ht, -, rfl⟩ := encD_eq_valid_iff.1 h
    exact ⟨t, _, rfl, ht, by simp, s1_notMem_channelDigits _⟩

/-- Settles O28: the lengths and symbols of the segments that each encoder joins. -/
theorem validResultsHaveTwelveSymbols : Obligations.ValidResultsHaveTwelveSymbols := by
  refine ⟨fun p d a on w h => ?dip, fun a b on w h => ?typeB, fun p a b c on w h => ?typeC, by decide⟩
  case dip =>
    obtain ⟨x, y, rfl, hx, hy, hs1⟩ := dipWord_of_valid h
    exact ⟨h.elim encA_valid_length encD_valid_length,
      by simp [s1_notMem_of_dipTransform hx, hs1, s1_notMem_statusSuffix],
      x, y, _, rfl, dipTransform_length hx, hy, statusSuffix_length on, hx⟩
  case typeB =>
    have hlen := encB_valid_length h
    obtain ⟨ha, hb, rfl⟩ := encB_eq_valid_iff.1 h
    have hla := nibble_length ha
    have hlb := nibble_length hb
    refine ⟨hlen, by simp [s1_notMem_nibble, s1_notMem_statusSymbol], hla, hlb, ?_, ?_,
      statusSymbol on, ?_, statusSymbol_length on⟩
    all_goals simp [List.drop_append, hla, hlb]
  case typeC =>
    have hlen := encC_valid_length h
    obtain ⟨-, -, -, rfl⟩ := encC_eq_valid_iff.1 h
    have hfamily := familyCode_length p (a.toNat - 0x61)
    rw [List.append_assoc, List.append_assoc] at hlen ⊢
    rw [List.take_left' hfamily, List.drop_left' hfamily]
    exact ⟨hlen, rfl, by simp [s1_notMem_indexDigits, s1_notMem_statusSymbol], _, statusSymbol on,
      (List.append_assoc _ _ _).symm, by simp, statusSymbol_length on⟩

end Sys2Proof.Machine
end

section
/-! SUPPORT. The encode-only commands (40_encoder.md R109 to R117): each latches its encoder's result, whose symbols
stand in the symbol fields of `LAST_WORD`. -/

namespace Sys2Proof.Machine

open Sys2Proof

section Fields

variable {w : List TriSym} {j : Nat} (hw : w.length = 12) (hj : j < 12)
include hw hj

/-- Symbol field `j` of a packed word holds the code of its symbol `j` (R72). -/
theorem symField_pack_toNat {a : TriSym} (h : w.getD j .s1 = a) : (symField (pack w) j).toNat = symCode a := by
  have hlt : j < w.length := by omega
  rw [symField_pack hw j hlt, ← h, List.getD_eq_getElem _ _ hlt]

theorem symField_pack_eq {a : TriSym} (h : w.getD j .s1 = a) : symField (pack w) j = BitVec.ofNat 2 (symCode a) := by
  apply BitVec.eq_of_toNat_eq
  rw [symField_pack_toNat hw hj h]
  cases a <;> rfl

/-- A symbol that a condition chooses gives a field that it chooses. -/
theorem symField_pack_ite {P : Prop} [Decidable P] {a b : TriSym} (h : w.getD j .s1 = if P then a else b) :
    symField (pack w) j = if P then BitVec.ofNat 2 (symCode a) else BitVec.ofNat 2 (symCode b) := by
  rw [symField_pack_eq hw hj h]
  split <;> rfl

end Fields

/-- The symbol fields of a Type A or Type D word whose first two segments are chosen place by place (R104, R105). -/
theorem symField_pack_dipWord {t c : List TriSym} {P Q : Nat → Prop} [DecidablePred P] [DecidablePred Q] (on : Bool)
    (ht : t.length = 5) (hc : c.length = 5) (hP : ∀ j, j < 5 → t.getD j .s1 = if P j then .s0 else .sF)
    (hQ : ∀ j, j < 5 → c.getD j .s1 = if Q j then .s0 else .sF) :
    (∀ j, j < 5 → symField (pack (t ++ c ++ statusSuffix on)) j = if P j then 0#2 else 2#2) ∧
    (∀ j, j < 5 → symField (pack (t ++ c ++ statusSuffix on)) (5 + j) = if Q j then 0#2 else 2#2) ∧
    symField (pack (t ++ c ++ statusSuffix on)) 10 = (if on then 0#2 else 2#2) ∧
    symField (pack (t ++ c ++ statusSuffix on)) 11 = (if on then 2#2 else 0#2) := by
  have hw : (t ++ c ++ statusSuffix on).length = 12 := by simp [ht, hc]
  obtain ⟨hdip, hchan, hstatus⟩ := getD_cut552 ht hc (statusSuffix on)
  have h10 : (t ++ c ++ statusSuffix on).getD 10 .s1 = if on then .s0 else .sF :=
    (hstatus 0).trans (by cases on <;> rfl)
  have h11 : (t ++ c ++ statusSuffix on).getD 11 .s1 = if on then .sF else .s0 :=
    (hstatus 1).trans (by cases on <;> rfl)
  exact ⟨fun j hj => symField_pack_ite hw (by omega) ((hdip j hj).trans (hP j hj)),
    fun j hj => symField_pack_ite hw (by omega) ((hchan j hj).trans (hQ j hj)),
    symField_pack_ite hw (by omega) h10, symField_pack_ite hw (by omega) h11⟩

section Commands

variable (p : Params) (d : List Byte) (a b c : Byte) (on : Bool) (s : State)

theorem exec_encA : exec (if on then .enconA d a else .encoffA d a) s = encodeOnly (encA s.params d a on) s := by
  cases on <;> rfl

theorem exec_encB : exec (if on then .enconB a b else .encoffB a b) s = encodeOnly (encB a b on) s := by
  cases on <;> rfl

theorem exec_encC :
    exec (if on then .enconC a b c else .encoffC a b c) s = encodeOnly (encC s.params a b c on) s := by
  cases on <;> rfl

theorem exec_encD : exec (if on then .enconD d a else .encoffD d a) s = encodeOnly (encD s.params d a on) s := by
  cases on <;> rfl

end Commands

/-- A valid result: its packed word, the valid flag and `OK` (R109). -/
theorem encodeOnly_of_valid {r : EncResult} {w : List TriSym} (h : r = .valid w) (s : State) :
    encodeOnly r s = .next { s with lastWord := pack w, lastValid := true, lastResult := .ok } := by
  rw [h]; rfl

/-- An invalid result: the invalid pattern, the flag cleared and `INVALID_ADDRESS` (R85, R109). -/
theorem encodeOnly_of_invalid {r : EncResult} (h : r = .invalid) (s : State) : encodeOnly r s =
    .next { s with lastWord := 0xFFFFFF#24, lastValid := false, lastResult := .invalidAddress } := by
  rw [h]; rfl

/-- Settles O30: the Type A word's fields are those of the transformed string, the channel's place and the suffix. -/
theorem encodeOnlyTypeA : Obligations.EncodeOnlyTypeA := by
  intro d chan on s hd
  refine ⟨fun hchars h1 h5 => ?valid, fun h => ?invalid⟩
  case valid =>
    obtain ⟨t, ht, hsym⟩ := dipTransform_of_charOk hd hchars
    have henc := (encA_eq_valid_iff (on := on)).2 ⟨t, ht, ⟨h1, h5⟩, rfl⟩
    exact ⟨_, (exec_encA d chan on s).trans (encodeOnly_of_valid henc s),
      symField_pack_dipWord on (dipTransform_length ht) (position_length ⟨h1, h5⟩) hsym fun j => position_getD ⟨h1, h5⟩⟩
  case invalid =>
    have henc := (typeAEncoderRule s.params d chan on).2 (h.imp_left (dipTransform_eq_none_iff hd).2)
    exact (exec_encA d chan on s).trans (encodeOnly_of_invalid henc s)

/-- Settles O31: the fields are the symbols that O23 gives. -/
theorem encodeOnlyTypeB : Obligations.EncodeOnlyTypeB := by
  intro group chan on s
  obtain ⟨hvalid, hinvalid⟩ := typeBEncoderRule group chan on
  refine ⟨fun hg1 hg4 hc1 hc4 => ?valid, fun h => ?invalid⟩
  case valid =>
    obtain ⟨w, henc, -, hlen, hsym⟩ := hvalid hg1 hg4 hc1 hc4
    exact ⟨pack w, (exec_encB group chan on s).trans (encodeOnly_of_valid henc s),
      fun j hj => symField_pack_ite hlen hj (hsym j hj)⟩
  case invalid => exact (exec_encB group chan on s).trans (encodeOnly_of_invalid (hinvalid h) s)

/-- Settles O32: the fields are the symbols of the four segments that O26 gives. -/
theorem encodeOnlyTypeC : Obligations.EncodeOnlyTypeC := by
  intro fam group dev on s
  obtain ⟨hvalid, hinvalid⟩ := typeCEncoderRule s.params fam group dev on
  refine ⟨fun hf1 hf2 hg1 hg4 hd1 hd4 => ?valid, fun h => ?invalid⟩
  case valid =>
    obtain ⟨f, g, w, henc, rfl, hf, hg, hlen, hfirst, hlater, hindex⟩ := hvalid hf1 hf2 hg1 hg4 hd1 hd4
    obtain ⟨hfam, hidx, hmiddle, hstatus⟩ :=
      getD_cut4431 hf hg (z := [.s0, .sF, .sF]) rfl (if on then .sF else .s0)
    refine ⟨_, (exec_encC fam group dev on s).trans (encodeOnly_of_valid henc s), fun h j hj => ?first,
      fun e h he => ?later, fun j hj => symField_pack_ite hlen (by omega) ((hidx j hj).trans (hindex j hj)),
      symField_pack_eq (j := 8) hlen (by omega) (hmiddle 0 (by omega)),
      symField_pack_eq (j := 9) hlen (by omega) (hmiddle 1 (by omega)),
      symField_pack_eq (j := 10) hlen (by omega) (hmiddle 2 (by omega)),
      symField_pack_ite hlen (by omega) hstatus⟩
    case first =>
      obtain rfl := hfirst h
      refine symField_pack_eq hlen (by omega) ((hfam j hj).trans (?_ : _ = TriSym.s0))
      interval_cases j <;> rfl
    case later =>
      obtain rfl := hlater e h he
      exact ⟨symField_pack_toNat hlen (by omega) (hfam 0 (by omega)),
        symField_pack_toNat hlen (by omega) (hfam 1 (by omega)),
        symField_pack_toNat hlen (by omega) (hfam 2 (by omega)),
        symField_pack_toNat hlen (by omega) (hfam 3 (by omega))⟩
  case invalid => exact (exec_encC fam group dev on s).trans (encodeOnly_of_invalid (hinvalid h) s)

/-- Settles O33: the Type D word's fields are those of the transformed string, the channel's digits and the suffix. -/
theorem encodeOnlyTypeD : Obligations.EncodeOnlyTypeD := by
  intro d chan on s hd
  refine ⟨fun hchars h1 h31 => ?valid, fun h => ?invalid⟩
  case valid =>
    obtain ⟨t, ht, hsym⟩ := dipTransform_of_charOk hd hchars
    have henc := (encD_eq_valid_iff (on := on)).2 ⟨t, ht, ⟨h1, h31⟩, rfl⟩
    exact ⟨_, (exec_encD d chan on s).trans (encodeOnly_of_valid henc s),
      symField_pack_dipWord on (dipTransform_length ht) (by simp) hsym fun j => channelDigits_getD⟩
  case invalid =>
    have henc := (typeDEncoderRule s.params d chan on).2 (h.imp_left (dipTransform_eq_none_iff hd).2)
    exact (exec_encD d chan on s).trans (encodeOnly_of_invalid henc s)

end Sys2Proof.Machine
end

section
/-! SUPPORT. The edge of a busy unit (43_transmit.md R205, R206): what it does to the word being sent and to the levels
still to come. -/

namespace Sys2Proof.Machine

open Sys2Proof

/-- Without reset a busy unit's edge is the serializer step and the end of the cycle (R256). -/
theorem step_of_busy {s : State} (hbusy : s.busy = true) (hrst : s.pins.rst = false) :
    step s = .next (serializerStep s).advance := by
  simp [step, clockEdge, edgeEffect, hbusy, hrst, advanceOutcome]

/-! The end of a cycle touches the ports alone. -/

@[simp] theorem sending_advance (s : State) (w : List TriSym) : s.advance.sending w ↔ s.sending w := Iff.rfl

@[simp] theorem txInv_advance (s : State) : s.advance.TxInv ↔ s.TxInv := Iff.rfl

@[simp] theorem levelsToCome_advance (s : State) : s.advance.levelsToCome = s.levelsToCome := rfl

/-- A unit at rest is in the middle of no transmission. -/
theorem txInv_of_idle {s : State} (h : s.busy = false) : s.TxInv := by
  simp [State.TxInv, h]

/-- A started unit is sending the word it started with: nothing of the waveform is sent yet, and all ticks of its first
segment are left (R205). -/
theorem sending_of_startedFrom {w : List TriSym} {s t : State} (hs : s.Inv) (hw : w.length = 12)
    (h : startedFrom w s t) : t.sending w := by
  obtain ⟨-, hrun, -⟩ := startedFrom_serializerLegal hs.clock hs.pulseLegal.1 h
  obtain ⟨-, -, k, rest, hwave, hbusy, hline, hsegs, hticks, hunit, -, hprofile, hpulse, hrepeat, hparams⟩ := h
  obtain ⟨-, hpos, -⟩ := hrun hbusy
  exact ⟨hw, by rw [hunit, hparams, hpulse], [], ⟨true, k⟩, by rw [hprofile, hrepeat, hwave, hsegs, List.nil_append],
    hline.symm, hpos, by rw [hticks, hunit]⟩

/-- The serializer step goes on with the same word, inside the segment or in the next one, or it is the last cycle of
the last segment and the unit comes to rest (R206). -/
theorem serializerStep_sending {s : State} {w : List TriSym} (hs : s.Inv) (hbusy : s.busy = true)
    (hw : s.sending w) :
    ((serializerStep s).busy = true ∧ (serializerStep s).sending w) ∨
    ((serializerStep s).busy = false ∧ s.txSegs = [] ∧ s.txTicks = 1) := by
  obtain ⟨hlen, hunit, sent, now, hwave, hlevel, hpos, hle⟩ := hw
  rcases serializerStep_cases s with ⟨hlt, e⟩ | ⟨-, g, rest, hcons, e⟩ | ⟨hlast, hnil, e⟩ <;> rw [e]
  · exact .inl ⟨hbusy, hlen, hunit, sent, now, hwave, hlevel, Nat.le_sub_of_add_le hlt, (Nat.sub_le ..).trans hle⟩
  · have hg : 1 ≤ g.units := hs.segsLegal g (by simp [hcons])
    obtain ⟨-, -, hcyc⟩ := hs.busyBound hbusy
    have hnext : waveform w s.profile s.repeatCnt.toNat = (sent ++ [now]) ++ g :: rest := by simp [hwave, hcons]
    exact .inl ⟨hbusy, hlen, hunit, sent ++ [now], g, hnext, rfl, Nat.mul_le_mul hg hcyc, le_rfl⟩
  · exact .inr ⟨rfl, hnil, le_antisymm hlast hpos⟩

theorem serializerStep_keeps_txInv {s : State} (hs : s.Inv) (hbusy : s.busy = true) (htx : s.TxInv) :
    (serializerStep s).TxInv := by
  obtain ⟨w, hw⟩ := htx hbusy
  rcases serializerStep_sending hs hbusy hw with ⟨-, hsending⟩ | ⟨hidle, -⟩
  · exact fun _ => ⟨w, hsending⟩
  · exact txInv_of_idle hidle

/-- A command of an idle unit leaves it idle or starts the transmission of its word (R204). -/
theorem exec_txInv {i : Instr} {s t : State} (hs : s.Inv) (hidle : s.busy = false) (h : exec i s = .next t) :
    t.TxInv := by
  rcases exec_serializer_cases h with ⟨⟨hbusy, -⟩, -⟩ | ⟨w, hw, hstart⟩
  · exact txInv_of_idle (hbusy.trans hidle)
  · exact fun _ => ⟨w, sending_of_startedFrom hs (sentWord_length hw) hstart⟩

theorem step_keeps_txInv {s t : State} (hs : s.Inv) (htx : s.TxInv) (h : step s = .next t) : t.TxInv := by
  rcases step_cases s with ⟨-, e⟩ | ⟨-, hbusy, e⟩ | ⟨haccepts, i, u, -, hexec, e⟩ | ⟨-, -, -, e⟩ | ⟨-, -, -, e⟩ <;>
    rw [e] at h <;> cases h <;> rw [txInv_advance]
  · exact txInv_of_idle rfl
  · exact serializerStep_keeps_txInv hs hbusy htx
  · obtain ⟨-, hidle, -⟩ := accepts_iff.1 haccepts
    exact exec_txInv hs hidle hexec
  · exact htx
  · exact htx

/-- Settles O5: the serializer step goes on with the word of the waveform it is in, and a command that starts one
starts at its beginning. -/
theorem everyEdgeKeepsTheTransmission : Obligations.EveryEdgeKeepsTheTransmission := by
  refine ⟨fun s t hs htx h => step_keeps_txInv hs htx h, fun s t w hs hw hbusy hrst h => ?_⟩
  rw [step_of_busy hbusy hrst] at h
  cases h
  rcases serializerStep_sending hs hbusy hw with ⟨hrun, hsending⟩ | ⟨hidle, hlast⟩
  · simp [hrun, hsending]
  · simp [hidle, hlast]

theorem levelsToCome_of_busy {s : State} (h : s.busy = true) :
    s.levelsToCome = List.replicate s.txTicks s.lineOut ++ segLevels s.txUnit s.txSegs := by
  simp [State.levelsToCome, h]

theorem levelsToCome_of_idle {s : State} (h : s.busy = false) : s.levelsToCome = [] := by
  simp [State.levelsToCome, h]

/-- The serializer step takes the present level off the levels to come (R153, R206). -/
theorem levelsToCome_serializerStep {s : State} (hs : s.Inv) (hbusy : s.busy = true) :
    s.levelsToCome = s.lineOut :: (serializerStep s).levelsToCome := by
  obtain ⟨-, hpos, -⟩ := hs.busyBound hbusy
  rw [levelsToCome_of_busy hbusy]
  rcases serializerStep_cases s with ⟨-, e⟩ | ⟨hlast, g, rest, hcons, e⟩ | ⟨hlast, hnil, e⟩ <;> rw [e]
  · obtain ⟨n, hn⟩ := Nat.exists_eq_add_of_le' hpos
    simp [State.levelsToCome, hbusy, hn, List.replicate_succ]
  · have hone : s.txTicks = 1 := le_antisymm hlast hpos
    simp [State.levelsToCome, hbusy, hone, hcons, segLevels]
  · have hone : s.txTicks = 1 := le_antisymm hlast hpos
    simp [State.levelsToCome, hone, hnil, segLevels]

/-- A busy unit has at least the present level to come. -/
theorem levelsToCome_eq_nil_iff {s : State} (hs : s.Inv) : s.levelsToCome = [] ↔ s.busy = false := by
  cases hbusy : s.busy with
  | false => simp [levelsToCome_of_idle hbusy]
  | true => simp [levelsToCome_serializerStep hs hbusy]

/-- Settles O46: the edge is the serializer step, and it keeps the invariant, by which a busy unit has a level to come. -/
theorem lineFollowsTheLevelsToCome : Obligations.LineFollowsTheLevelsToCome := by
  intro s hs hbusy hrst
  exact ⟨_, step_of_busy hbusy hrst, levelsToCome_serializerStep hs hbusy,
    levelsToCome_eq_nil_iff (inv_advance.2 (serializerStep_keeps_inv hbusy hs))⟩

end Sys2Proof.Machine
end

section
/-! SUPPORT. The length of a unit in ticks (41_timebase.md R151, R154). -/

namespace Sys2Proof.Machine

open Sys2Proof

/-- `UNIT_CYC` is a ceiling: the numbers of ticks it is not above are those not shorter than the pulse length. -/
theorem unitCyc_le_iff {p : Params} {us : Half} {q : Nat} :
    unitCyc p us ≤ q ↔ us.toNat * p.fClk ≤ q * 1000000 := by
  unfold unitCyc
  omega

theorem pulse_le_unitCyc (p : Params) (us : Half) : us.toNat * p.fClk ≤ unitCyc p us * 1000000 :=
  unitCyc_le_iff.1 le_rfl

theorem unitCyc_lt_pulse_add_tick (p : Params) (us : Half) :
    unitCyc p us * 1000000 < us.toNat * p.fClk + 1000000 := by
  unfold unitCyc
  omega

/-- A pulse length that is a whole number of ticks is met exactly (R154). -/
theorem unitCyc_exact {p : Params} {us : Half} (h : 1000000 ∣ us.toNat * p.fClk) :
    unitCyc p us * 1000000 = us.toNat * p.fClk := by
  unfold unitCyc
  omega

/-- Settles O48: the ceiling by its characterisation, which is exact at 1 MHz. -/
theorem unitIsTheCeilingOfThePulseLength : Obligations.UnitIsTheCeilingOfThePulseLength := by
  intro p us
  refine ⟨pulse_le_unitCyc p us, fun q => unitCyc_le_iff.2, fun hus hclock => unitCyc_pos hclock hus, fun hclock => ?_⟩
  have hexact := unitCyc_exact (p := p) (us := us) (hclock ▸ Nat.dvd_mul_left ..)
  rw [hclock] at hexact
  exact Nat.eq_of_mul_eq_mul_right (by decide) hexact

/-- Settles O49: the bounds of one unit, and `n` times them. -/
theorem segmentsKeepTheAccuracyTarget : Obligations.SegmentsKeepTheAccuracyTarget := by
  intro p us n hn
  have hlow := pulse_le_unitCyc p us
  have hhigh := unitCyc_lt_pulse_add_tick p us
  rw [Nat.mul_assoc n us.toNat, Nat.mul_assoc n (unitCyc p us), ← Nat.mul_add]
  exact ⟨⟨hlow, hhigh⟩, ⟨Nat.mul_le_mul_left n hlow, Nat.mul_lt_mul_of_pos_left hhigh hn⟩,
    fun h => congrArg (n * ·) (unitCyc_exact h)⟩

end Sys2Proof.Machine
end

section
/-! SUPPORT. The words of the commands with one operand above the opcode byte (30_encoding.md R76: formats B8, H16
and W). -/

namespace Sys2Proof

section OperandWord

variable {n : Nat} (v : BitVec n) (b : Byte)

/-- The low byte of such a word is the opcode byte. -/
theorem field8_operandWord : field8 (v.setWidth 64 <<< 8 ||| b.setWidth 64) 0 = b :=
  field8_zero_eq_iff.2 fun k hk => by simp [hk, show k < 64 by omega]

/-- From bit 8 upward such a word is its operand. -/
theorem getLsbD_operandWord {k : Nat} (hk : k < 56) :
    (v.setWidth 64 <<< 8 ||| b.setWidth 64).getLsbD (8 + k) = v.getLsbD k := by
  simp [show 8 + k < 64 by omega]

theorem extractLsb'_operandWord (hn : n ≤ 56) :
    (v.setWidth 64 <<< 8 ||| b.setWidth 64).extractLsb' 8 n = v := by
  refine BitVec.eq_of_getLsbD_eq fun k hk => ?_
  rw [BitVec.getLsbD_extractLsb', getLsbD_operandWord v b (by omega)]
  simp [hk]

end OperandWord

/-- A command that takes the one operand of its format is read from the word with its opcode and that operand. -/
theorem decode_operandWord {n : Nat} {op : Opcode} {make : BitVec n → Instr} (hformat : 8 + n = op.format.usedBits)
    (hmake : ∀ w, op.withOperands w = make (w.extractLsb' 8 n)) (v : BitVec n) :
    decode (v.setWidth 64 <<< 8 ||| op.byte.setWidth 64) = .ok (make v) := by
  have hn : n ≤ 56 := by
    have hused : op.format.usedBits ≤ 64 := by cases op <;> decide
    omega
  have hclear : ∀ k, op.format.usedBits ≤ k → k < 64 →
      (v.setWidth 64 <<< 8 ||| op.byte.setWidth 64).getLsbD k = false := by
    intro k hle hlt
    obtain ⟨j, rfl⟩ := Nat.exists_eq_add_of_le (show 8 ≤ k by omega)
    rw [getLsbD_operandWord v _ (by omega)]
    exact BitVec.getLsbD_of_ge v j (by omega)
  rw [decode_eq_ok_withOperands_iff.2 ⟨field8_operandWord v op.byte, hclear⟩, hmake, extractLsb'_operandWord v _ hn]

end Sys2Proof
end

section
/-! SUPPORT. The configuration commands, whole (42_transmitter_config.md R170 to R174): the next state of each, and what
a command can do to a unit that does not transmit. -/

namespace Sys2Proof.Machine

open Sys2Proof

/-- `SET_PROFILE` of a legal profile writes the profile and its default pulse length (R170). -/
theorem exec_setProfile_of_some {n : Byte} {p : Profile} (h : profileOf n = some p) (s : State) :
    exec (.setProfile n) s =
      .next { s with profile := p, pulseLen := (timing p).defaultLen, lastResult := .ok } := by
  simp only [exec, execSetProfile, h]
  rfl

theorem exec_setProfile_of_none {n : Byte} (h : profileOf n = none) (s : State) :
    exec (.setProfile n) s = .next { s with lastResult := .badProfile } := by
  simp only [exec, execSetProfile, h]
  rfl

/-- `SET_PULSE_LEN` of a legal length writes it (R171). -/
theorem exec_setPulseLen_of_ne {us : Half} (h : us ≠ 0#16) (s : State) :
    exec (.setPulseLen us) s = .next { s with pulseLen := us, lastResult := .ok } := by
  simp only [exec, execSetPulseLen, if_neg h]
  rfl

/-- `ENABLE_TX` writes the line, and the collaborator's answer decides the rest (R173). -/
theorem exec_enableTx (line : Byte) (s : State) : exec (.enableTx line) s = .next { s with
    lineId := line
    bound := s.pins.openOk
    lastResult := if s.pins.openOk then .ok else .lineFault } := by
  cases hopen : s.pins.openOk <;> simp only [exec, execEnableTx, hopen] <;> rfl

theorem exec_disableTx (s : State) : exec .disableTx s = .next { s with bound := false, lastResult := .ok } := rfl

/-- An accepting edge ends in the state its command gives, with the cycle over (R70, R256). -/
theorem step_of_exec {s t : State} {i : Instr} (haccepts : s.accepts = true) (hdecode : decode s.pins.cmdData = .ok i)
    (hexec : exec i s = .next t) : step s = .next t.advance := by
  rw [step_of_accepts haccepts, acceptWord_of_decode hdecode, hexec]
  rfl

/-- A command that sends a word and uses an encoder has that word from a valid result (R211 to R218). -/
theorem encoderResult_of_sentWord {p : Params} {i : Instr} {r : EncResult} {w : List TriSym}
    (hw : sentWord p i = some w) (hr : encoderResult p i = some r) : r = .valid w := by
  cases i with
  | swonA | swoffA | swonB | swoffB | swonC | swoffC | swonD | swoffD => cases hr; exact word?_eq_some_iff.1 hw
  | enconA | encoffA | enconB | encoffB | enconC | encoffC | enconD | encoffD => cases hw
  | _ => cases hr

namespace CommandOutcome

variable {s t : State} {i : Instr}

/-- A command that sends a word ends with `OK`, whether or not the word goes out (R204, R250). -/
theorem lastResult_of_sentWord (h : CommandOutcome s i t) {w : List TriSym} (hw : sentWord s.params i = some w) :
    t.lastResult = .ok := by
  cases h with
  | sends | latchesAndSends => simp
  | latches hr => obtain rfl := encoderResult_of_sentWord hw hr; rfl
  | rejectsWord hnone => cases hnone.symm.trans hw
  | _ => cases hw

/-- Only `ENABLE_TX` binds (R173). -/
theorem stays_unbound (h : CommandOutcome s i t) (hunbound : s.bound = false) (hi : ∀ line, i ≠ .enableTx line) :
    t.bound = false := by
  cases h with
  | opensLine => exact absurd rfl (hi _)
  | _ => simp [hunbound]

end CommandOutcome

/-- A command of an idle unit that is unbound or has `REPEAT = 0` starts no transmission, since a started one has a
bound unit and a repeat count other than 0 (R204). -/
theorem exec_stays_idle {i : Instr} {s t : State} (hquiet : s.bound = false ∨ s.repeatCnt = 0#16)
    (hidle : s.busy = false) (h : exec i s = .next t) : t.busy = false := by
  rcases exec_serializer_cases h with ⟨⟨hbusy, -⟩, -⟩ | ⟨w, -, hbound, hrepeat, -⟩
  · exact hbusy.trans hidle
  · rcases hquiet with hunbound | hzero
    · simp [hunbound] at hbound
    · exact absurd hzero hrepeat

/-- What every command of an idle unit does that is unbound or has `REPEAT = 0` (R172, R174, R204). -/
theorem exec_sends_nothing (i : Instr) {s : State} (hquiet : s.bound = false ∨ s.repeatCnt = 0#16)
    (hidle : s.busy = false) :
    ∃ t, exec i s = .next t ∧ t.busy = false ∧ t.levelsToCome = [] ∧
      (sentWord s.params i ≠ none → t.lastResult = .ok) := by
  obtain ⟨t, ht, -, -⟩ := exec_next i s
  have hbusy : t.busy = false := exec_stays_idle hquiet hidle ht
  refine ⟨t, ht, hbusy, levelsToCome_of_idle hbusy, fun hsends => ?_⟩
  obtain ⟨w, hw⟩ := Option.ne_none_iff_exists'.1 hsends
  exact (exec_outcome ht).lastResult_of_sentWord hw

/-- Settles O36: the operand is 1, 2 or selects no profile. -/
theorem setProfileRule : Obligations.SetProfileRule :=
  ⟨decode_operandWord (op := .setProfile) rfl fun _ => rfl, exec_setProfile_of_some (p := .p1) rfl,
    exec_setProfile_of_some (p := .p2) rfl,
    fun _ s h1 h2 => exec_setProfile_of_none (profileOf_eq_none_iff.2 ⟨h1, h2⟩) s, rfl, rfl⟩

/-- Settles O37: the operand is 0 or a legal length, and a later `SET_PROFILE` writes its own default. -/
theorem setPulseLenRule : Obligations.SetPulseLenRule :=
  ⟨decode_operandWord (op := .setPulseLen) rfl fun _ => rfl, fun _ => rfl, fun _ s h => exec_setPulseLen_of_ne h s,
    fun _ _ u _ => ⟨⟨_, exec_setProfile_of_some (p := .p1) rfl u, rfl⟩,
      ⟨_, exec_setProfile_of_some (p := .p2) rfl u, rfl⟩⟩⟩

/-- Settles O38: the command writes its operand, and `REPEAT = 0` is one of the two conditions under which nothing is
sent. -/
theorem setRepeatRule : Obligations.SetRepeatRule :=
  ⟨decode_operandWord (op := .setRepeat) rfl fun _ => rfl, fun _ _ => rfl,
    fun _ i hzero hidle => exec_sends_nothing i (.inr hzero) hidle⟩

/-- Settles O39: one equation covers both answers; at an edge the line keeps its level, which the invariant makes low
in an idle unit. -/
theorem enableTxRule : Obligations.EnableTxRule := by
  have hdecode := decode_operandWord (op := .enableTx) rfl fun _ => rfl
  refine ⟨hdecode, fun line s hopen => ?opens, fun line s hopen => ?fails, fun line s t haccepts hdata h => ?edge⟩
  case opens => simp [exec_enableTx, hopen]
  case fails => simp [exec_enableTx, hopen]
  case edge =>
    have hnext := step_of_exec haccepts (hdata ▸ hdecode line) (exec_enableTx line s)
    cases hnext.symm.trans h
    obtain ⟨-, hidle, -⟩ := accepts_iff.1 haccepts
    refine ⟨rfl, rfl, fun hinv => ?_⟩
    obtain ⟨-, -, hlow⟩ := hinv.idleClear hidle
    exact hlow

/-- Settles O40: the command clears `BOUND`, and an unbound unit sends nothing and binds by `ENABLE_TX` alone. -/
theorem disableTxRule : Obligations.DisableTxRule := by
  have hdecode : decode 0x0000000000000005#64 = .ok .disableTx := rfl
  refine ⟨hdecode, exec_disableTx, fun s t haccepts hdata h => ?edge, fun s i hunbound hidle => ?unbound⟩
  case edge =>
    have hnext := step_of_exec haccepts (hdata ▸ hdecode) (exec_disableTx s)
    cases hnext.symm.trans h
    exact ⟨rfl, rfl, rfl⟩
  case unbound =>
    obtain ⟨t, ht, hbusy, hlevels, hresult⟩ := exec_sends_nothing i (.inl hunbound) hidle
    exact ⟨t, ht, hbusy, hlevels, (exec_outcome ht).stays_unbound hunbound, hresult⟩

end Sys2Proof.Machine
end

section
/-! SUPPORT. The waveform by its pulses (43_transmit.md R200 to R203, R209, R210): every pulse is a high segment and a
low one, so the levels of a waveform are `high, low` over and over, whatever the word. -/

namespace Sys2Proof.Machine

open Sys2Proof

/-- Settles O42: the table's entries, as the pulses of the symbol make them. -/
theorem symbolWaveforms : Obligations.SymbolWaveforms := ⟨rfl, rfl, rfl, rfl, rfl, rfl⟩

theorem wordSegs_eq_flatten (p : Profile) (w : List TriSym) : wordSegs p w = (w.map (symbolSegs p)).flatten := by
  induction w with
  | nil => rfl
  | cons a w ih => simp [wordSegs, ih]

theorem passSegs_eq (p : Profile) (w : List TriSym) :
    passSegs p w = (w.map (symbolSegs p)).flatten ++ pulseSegs (timing p).sync := by
  rw [passSegs, wordSegs_eq_flatten]

theorem copies_eq_flatten (n : Nat) (segs : List Segment) : copies n segs = (List.replicate n segs).flatten := by
  induction n with
  | zero => rfl
  | succ n ih => simp [copies, ih, List.replicate_succ]

theorem waveform_length {w : List TriSym} (hw : w.length = 12) (p : Profile) (n : Nat) :
    (waveform w p n).length = 50 * n := by
  simp [waveform, hw, Nat.mul_comm]

/-- Settles O43: the recursions over symbols and passes are the concatenations of R202 and R203. -/
theorem waveformIsPassesOfSymbolsAndSync : Obligations.WaveformIsPassesOfSymbolsAndSync := by
  refine ⟨fun w hw => ⟨passSegs_eq .p1 w, passSegs_eq .p2 w, fun p => ?pass⟩, fun w p n hw =>
    ⟨copies_eq_flatten n _, waveform_length hw p n⟩⟩
  case pass => rw [passSegs_length, hw]

theorem waveform_succ (w : List TriSym) (p : Profile) (n : Nat) :
    waveform w p (n + 1) = passSegs p w ++ waveform w p n := rfl

/-- The levels of `k` pulses (R200). -/
def pulseLevels (k : Nat) : List Bool := (List.replicate k [true, false]).flatten

theorem pulseLevels_succ (k : Nat) : pulseLevels (k + 1) = true :: false :: pulseLevels k := by
  simp [pulseLevels, List.replicate_succ]

theorem pulseLevels_succ_eq_append (k : Nat) : pulseLevels (k + 1) = pulseLevels k ++ [true, false] := by
  simp [pulseLevels, List.replicate_succ']

theorem pulseLevels_add (j k : Nat) : pulseLevels (j + k) = pulseLevels j ++ pulseLevels k := by
  rw [pulseLevels, List.replicate_add, List.flatten_append]
  rfl

@[simp] theorem pulseLevels_length (k : Nat) : (pulseLevels k).length = k * 2 := by
  simp [pulseLevels]

theorem levels_symbolSegs (p : Profile) (a : TriSym) : (symbolSegs p a).map Segment.level = pulseLevels 2 := by
  cases a <;> rfl

theorem levels_wordSegs (p : Profile) (w : List TriSym) :
    (wordSegs p w).map Segment.level = pulseLevels (2 * w.length) := by
  induction w with
  | nil => rfl
  | cons a w ih =>
    rw [wordSegs, List.map_append, levels_symbolSegs, ih, ← pulseLevels_add, List.length_cons, Nat.mul_succ,
      Nat.add_comm]

theorem levels_passSegs (p : Profile) {w : List TriSym} (hw : w.length = 12) :
    (passSegs p w).map Segment.level = pulseLevels 25 := by
  rw [passSegs, List.map_append, levels_wordSegs, hw, pulseLevels_succ_eq_append 24]
  rfl

/-- The levels of a waveform: 25 pulses a pass. -/
theorem levels_waveform {w : List TriSym} (hw : w.length = 12) (p : Profile) (n : Nat) :
    (waveform w p n).map Segment.level = pulseLevels (25 * n) := by
  induction n with
  | zero => rfl
  | succ n ih =>
    rw [waveform_succ, List.map_append, levels_passSegs p hw, ih, ← pulseLevels_add, Nat.mul_succ, Nat.add_comm]

theorem alternates_iff {segs : List Segment} :
    alternates segs = true ↔ (segs.map Segment.level).IsChain (· ≠ ·) := by
  induction segs with
  | nil => simp [alternates]
  | cons a segs ih =>
    cases segs with
    | nil => simp [alternates]
    | cons b rest => simp [alternates, ih]

/-- Where all neighbours differ there is a change between any two. -/
theorem levelChanges_of_isChain {l : List Bool} (h : l.IsChain (· ≠ ·)) : levelChanges l = l.length - 1 := by
  induction l with
  | nil => rfl
  | cons a l ih =>
    cases l with
    | nil => rfl
    | cons b rest =>
      obtain ⟨hab, hrest⟩ := List.isChain_cons_cons.1 h
      simp only [levelChanges, if_neg hab, ih hrest, List.length_cons]
      omega

/-- The last level once more is no change. -/
theorem levelChanges_append_same (l : List Bool) (a : Bool) : levelChanges (l ++ [a, a]) = levelChanges (l ++ [a]) := by
  induction l with
  | nil => simp [levelChanges]
  | cons b l ih =>
    cases l with
    | nil => simp [levelChanges]
    | cons c rest => simpa [levelChanges] using ih

/-- From the low level before it, a train of pulses changes level at every segment. -/
theorem isChain_low_pulseLevels (k : Nat) : (false :: pulseLevels k).IsChain (· ≠ ·) := by
  induction k with
  | zero => simp [pulseLevels]
  | succ k ih => simpa [pulseLevels_succ] using ih

/-- Settles O44: the levels are those of `25 n` pulses, between which each neighbour differs, the low level before
included; the last pulse ends low. -/
theorem waveformAlternates : Obligations.WaveformAlternates := by
  intro w p n hw hn
  have hlow := isChain_low_pulseLevels (25 * n)
  have hchain : (pulseLevels (25 * n)).IsChain (· ≠ ·) := hlow.tail
  have hbefore : levelChanges (false :: pulseLevels (25 * n)) = 50 * n := by
    rw [levelChanges_of_isChain hlow]
    simp
    omega
  rw [alternates_iff, levels_waveform hw]
  refine ⟨hchain, fun g => waveform_units, ?between, hbefore, ?after⟩
  case between =>
    rw [levelChanges_of_isChain hchain]
    simp
    omega
  case after =>
    obtain ⟨k, hk⟩ := Nat.exists_eq_add_of_le' (show 1 ≤ 25 * n by omega)
    rw [hk, pulseLevels_succ_eq_append] at hbefore ⊢
    have hsame := levelChanges_append_same (false :: pulseLevels k ++ [true]) false
    simpa [hbefore] using hsame

/-- The units of one symbol under each profile (R209). -/
def unitsPerSymbol : Profile → Nat
  | .p1 => 8
  | .p2 => 6

theorem totalUnits_symbolSegs (p : Profile) (a : TriSym) : totalUnits (symbolSegs p a) = unitsPerSymbol p := by
  cases p <;> cases a <;> rfl

theorem totalUnits_wordSegs (p : Profile) (w : List TriSym) :
    totalUnits (wordSegs p w) = w.length * unitsPerSymbol p := by
  induction w with
  | nil => simp [wordSegs, totalUnits]
  | cons a w ih =>
    rw [wordSegs, totalUnits_append, totalUnits_symbolSegs, ih, List.length_cons, Nat.succ_mul, Nat.add_comm]

theorem totalUnits_passSegs (p : Profile) {w : List TriSym} (hw : w.length = 12) :
    totalUnits (passSegs p w) = unitsPerPass p := by
  rw [passSegs, totalUnits_append, totalUnits_wordSegs, hw]
  cases p <;> rfl

theorem totalUnits_waveform {w : List TriSym} (hw : w.length = 12) (p : Profile) (n : Nat) :
    totalUnits (waveform w p n) = n * unitsPerPass p := by
  induction n with
  | zero => simp [waveform, copies, totalUnits]
  | succ n ih => rw [waveform_succ, totalUnits_append, totalUnits_passSegs p hw, ih, Nat.succ_mul, Nat.add_comm]

end Sys2Proof.Machine
end

section
/-! SUPPORT. The serializer step and the transmitting commands, whole (43_transmit.md R204 to R206, R209, R211 to
R220). -/

namespace Sys2Proof.Machine

open Sys2Proof

/-! The serializer step, an equation per case (R206). -/

theorem serializerStep_inside {s : State} (h : 1 < s.txTicks) :
    serializerStep s = { s with txTicks := s.txTicks - 1 } := by
  simp [serializerStep, h]

theorem serializerStep_nextSegment {s : State} {g : Segment} {rest : List Segment} (h : s.txTicks ≤ 1)
    (hsegs : s.txSegs = g :: rest) :
    serializerStep s = { s with lineOut := g.level, txTicks := g.units * s.txUnit, txSegs := rest } := by
  simp [serializerStep, h.not_gt, hsegs]

theorem serializerStep_last {s : State} (h : s.txTicks ≤ 1) (hsegs : s.txSegs = []) :
    serializerStep s = { s with lineOut := false, txTicks := 0, busy := false } := by
  simp [serializerStep, h.not_gt, hsegs]

theorem serializerStep_txUnit (s : State) : (serializerStep s).txUnit = s.txUnit := by
  rcases serializerStep_cases s with ⟨-, e⟩ | ⟨-, g, rest, -, e⟩ | ⟨-, -, e⟩ <;> rw [e]

/-- A busy unit accepts nothing (R70). -/
theorem not_accepts_of_busy {s : State} (h : s.busy = true) : s.accepts = false := by
  simp [State.accepts, h]

/-- An idle unit's edge with no accepted command changes no register (R206). -/
theorem step_of_idle {s : State} (hrst : s.pins.rst = false) (hidle : s.busy = false) (h : s.accepts = false) :
    step s = .next s.advance := by
  have hvalid : s.pins.cmdValid = false := by simpa [State.accepts, hidle, hrst] using h
  simp [step, clockEdge, edgeEffect, hrst, hidle, hvalid, advanceOutcome]

/-- Settles O12: a busy unit's edge is the serializer step, case by case, and an idle one only ends the cycle. -/
theorem serializerStepRule : Obligations.SerializerStepRule := by
  refine fun s hrst => ⟨fun hbusy h => ?inside, fun l u rest hbusy h hsegs => ?nextSegment,
    fun hbusy h hsegs => ?last, not_accepts_of_busy, step_of_idle hrst⟩
  case inside => rw [step_of_busy hbusy hrst, serializerStep_inside h]; rfl
  case nextSegment => rw [step_of_busy hbusy hrst, serializerStep_nextSegment h hsegs]; rfl
  case last => rw [step_of_busy hbusy hrst, serializerStep_last h hsegs]; rfl

/-- Settles O11: a busy unit's edge is the serializer step whatever is offered, which writes no command register and
takes the present level off the levels to come. -/
theorem noCommandDisturbsATransmission : Obligations.NoCommandDisturbsATransmission := by
  intro s t hbusy hrst h
  rw [step_of_busy hbusy hrst] at h
  cases h
  refine ⟨not_accepts_of_busy hbusy, by simp [State.ports, hbusy], serializerStep_sameCommandRegisters s,
    serializerStep_txUnit s, fun hs => ?_⟩
  rw [levelsToCome_advance, levelsToCome_serializerStep hs hbusy, List.tail_cons]

/-- What `Transmit(w)` writes while bound with `REPEAT ≠ 0`: the first segment of the waveform is high and goes on the
line, the others are left to emit (R204, R205). -/
theorem transmit_started {w : List TriSym} {s : State} (hw : w.length = 12) (hbound : s.bound = true)
    (hrepeat : s.repeatCnt ≠ 0#16) :
    ∃ h rest, waveform w s.profile s.repeatCnt.toNat = ⟨true, h⟩ :: rest ∧
      transmit w s = { s with
        txUnit := unitCyc s.params s.pulseLen
        lineOut := true
        txTicks := h * unitCyc s.params s.pulseLen
        txSegs := rest
        busy := true } := by
  have hword : w ≠ [] := List.ne_nil_of_length_pos (by omega)
  have hcount : s.repeatCnt.toNat ≠ 0 := fun h0 => hrepeat (BitVec.eq_of_toNat_eq h0)
  obtain ⟨h, rest, hwave⟩ := waveform_begins_high (p := s.profile) hword hcount
  refine ⟨h, rest, hwave, ?_⟩
  rw [transmit_starts hbound hrepeat, hwave]
  rfl

/-- A command that latches and sends, beside one that latches the same result. -/
theorem latchesThenSends_of_exec {sw enc : Instr} {r : EncResult} {s : State} (hsw : exec sw s = encodeAndSend r s)
    (henc : exec enc s = encodeOnly r s) (hlen : ∀ w, r = .valid w → w.length = 12) : latchesThenSends sw enc r s := by
  refine ⟨latch r s, henc, fun hquiet => ?quiet, fun w hr hbound hrepeat => ?sends⟩
  case quiet =>
    rcases encodeAndSend_cases r s with ⟨rfl, e⟩ | ⟨w, rfl, e⟩
    · exact hsw.trans e
    · rw [hsw, e, transmit_idle (by simpa using hquiet)]
  case sends =>
    subst hr
    obtain ⟨h, rest, hwave, e⟩ := transmit_started (s := latch (.valid w) s) (hlen w rfl) hbound hrepeat
    exact ⟨h, rest, hwave, hsw.trans (congrArg Host.Outcome.next e)⟩

/-- Settles O34: every pair of commands runs one encoder, whose valid results have 12 symbols. -/
theorem switchCommandsLatchThenSend : Obligations.SwitchCommandsLatchThenSend := fun _ _ _ _ _ =>
  ⟨latchesThenSends_of_exec rfl rfl fun _ => encA_valid_length,
    latchesThenSends_of_exec rfl rfl fun _ => encA_valid_length,
    latchesThenSends_of_exec rfl rfl fun _ => encB_valid_length,
    latchesThenSends_of_exec rfl rfl fun _ => encB_valid_length,
    latchesThenSends_of_exec rfl rfl fun _ => encC_valid_length,
    latchesThenSends_of_exec rfl rfl fun _ => encC_valid_length,
    latchesThenSends_of_exec rfl rfl fun _ => encD_valid_length,
    latchesThenSends_of_exec rfl rfl fun _ => encD_valid_length⟩

theorem exec_sendTristate_of_none {f : CodeField} (h : unpack f = none) (s : State) :
    exec (.sendTristate f) s = .next { s with lastResult := .badSymbol } := by
  simp only [exec, execSendTristate, h]
  rfl

theorem exec_sendTristate_of_some {f : CodeField} {w : List TriSym} (h : unpack f = some w) (s : State) :
    exec (.sendTristate f) s = .next (transmit w (finish s)) := by
  simp only [exec, execSendTristate, h]

/-- Settles O35: the field is refused for a reserved symbol, or its string is transmitted after `OK` is written. -/
theorem sendTristateRule : Obligations.SendTristateRule := by
  refine ⟨decode_operandWord (op := .sendTristate) rfl fun _ => rfl,
    fun f s h => exec_sendTristate_of_none (unpack_eq_none_iff.2 h) s, fun f s h => ?sends, rfl⟩
  obtain ⟨-, hdecodes, -⟩ := wellFormedFieldsAreTheCodeWords
  obtain ⟨w, hunpack, hlen, hcodes⟩ := hdecodes f (wellFormedField_iff.2 h)
  refine ⟨w, hlen, hcodes, fun hquiet => ?quiet, fun hbound hrepeat => ?starts⟩
  case quiet =>
    rw [exec_sendTristate_of_some hunpack, transmit_idle (s := finish s) hquiet]
    rfl
  case starts =>
    obtain ⟨k, rest, hwave, e⟩ := transmit_started (s := finish s) hlen hbound hrepeat
    exact ⟨k, rest, hwave, (exec_sendTristate_of_some hunpack s).trans (congrArg Host.Outcome.next e)⟩

/-- A command that sends a word starts its waveform while bound with `REPEAT ≠ 0` (R204). -/
theorem exec_starts {i : Instr} {s : State} {w : List TriSym} (hsent : sentWord s.params i = some w)
    (hbound : s.bound = true) (hrepeat : s.repeatCnt ≠ 0#16) : ∃ t, exec i s = .next t ∧ startedFrom w s t := by
  obtain ⟨t, ht, -, -⟩ := exec_next i s
  rcases exec_serializer_cases ht with ⟨-, hquiet⟩ | ⟨v, hv, hstart⟩
  · simp [hsent, hbound, hrepeat] at hquiet
  · cases hsent.symm.trans hv
    exact ⟨t, ht, hstart⟩

/-- The levels to come at the start of a transmission are those of the whole waveform (R153, R205). -/
theorem levelsToCome_of_startedFrom {w : List TriSym} {s t : State} (h : startedFrom w s t) :
    t.levelsToCome = segLevels (unitCyc s.params s.pulseLen) (waveform w s.profile s.repeatCnt.toNat) := by
  obtain ⟨-, -, k, rest, hwave, hbusy, hline, hsegs, hticks, hunit, -⟩ := h
  rw [levelsToCome_of_busy hbusy, hline, hsegs, hticks, hunit, hwave, segLevels]

/-- Settles O45: the levels to come are those of the waveform, `REPEAT` passes of the same length. -/
theorem transmissionLength : Obligations.TransmissionLength := by
  refine ⟨fun a => ⟨totalUnits_symbolSegs .p1 a, totalUnits_symbolSegs .p2 a⟩, fun w p hw => totalUnits_passSegs p hw,
    fun i s w _ hbound hrepeat hsent => ?sends, rfl, rfl⟩
  obtain ⟨t, ht, hstart⟩ := exec_starts hsent hbound hrepeat
  have hlevels := levelsToCome_of_startedFrom hstart
  obtain ⟨-, -, -, -, -, hbusy, -⟩ := hstart
  exact ⟨t, ht, hbusy, by rw [hlevels, segLevels_length, totalUnits_waveform (sentWord_length hsent)]⟩

end Sys2Proof.Machine
end

section
/-! SUPPORT. The placement of a whole transmission in cycles (43_transmit.md R207): a run of edges consumes the levels to
come one by one, and a segment's levels stand where `segStart` says. -/

namespace Sys2Proof.Machine

open Sys2Proof

theorem segLevels_append (unit : Nat) (a b : List Segment) :
    segLevels unit (a ++ b) = segLevels unit a ++ segLevels unit b := by
  induction a with
  | nil => rfl
  | cons g a ih => simp [segLevels, ih]

/-- Segment `k` begins after the levels of the segments before it (R153). -/
theorem segLevels_take_length (unit : Nat) (segs : List Segment) (k : Nat) :
    (segLevels unit (segs.take k)).length = segStart unit segs k := segLevels_length unit _

/-- The next segment begins where segment `k` ends. -/
theorem segStart_succ {unit : Nat} {segs : List Segment} {k : Nat} {g : Segment} (hg : segs[k]? = some g) :
    segStart unit segs (k + 1) = segStart unit segs k + g.units * unit := by
  simp [segStart, List.take_add_one, hg, totalUnits, Nat.add_mul]

/-- In each cycle of segment `k` the level is the segment's (R153). -/
theorem segLevels_getElem? {unit : Nat} {segs : List Segment} {k c : Nat} {g : Segment} (hg : segs[k]? = some g)
    (hlow : segStart unit segs k ≤ c) (hhigh : c < segStart unit segs (k + 1)) :
    (segLevels unit segs)[c]? = some g.level := by
  have hcut : segLevels unit segs = segLevels unit (segs.take (k + 1)) ++ segLevels unit (segs.drop (k + 1)) := by
    rw [← segLevels_append, List.take_append_drop]
  have hlast : segLevels unit (segs.take (k + 1)) =
      segLevels unit (segs.take k) ++ List.replicate (g.units * unit) g.level := by
    simp [List.take_add_one, hg, segLevels_append, segLevels]
  rw [hcut, List.getElem?_append_left (by rwa [segLevels_take_length]), hlast,
    List.getElem?_append_right (by rwa [segLevels_take_length]), segLevels_take_length]
  rw [segStart_succ hg] at hhigh
  exact List.getElem?_replicate_of_lt (by omega)

theorem resetFree_mono {s : State} {m n : Nat} (hmn : m ≤ n) (h : s.resetFree n) : s.resetFree m :=
  fun k hk => h k (hk.trans_le hmn)

/-- `rst` is low for `n + 1` cycles: in this one, and for `n` from the next state on. -/
theorem resetFree_succ_iff {s t : State} {n : Nat} (h : t.inputs = s.inputs.tail) :
    s.resetFree (n + 1) ↔ s.pins.rst = false ∧ t.resetFree n := by
  have hhead : s.inputs.getD 0 PortIn.idle = s.pins := by cases hs : s.inputs <;> simp [State.pins, hs]
  have htail : ∀ k, s.inputs.getD (k + 1) PortIn.idle = t.inputs.getD k PortIn.idle := by
    intro k
    rw [h]
    cases s.inputs <;> simp
  rw [State.resetFree, Nat.forall_lt_succ_left, hhead]
  simp only [htail, State.resetFree]

/-- Edges without reset take the levels to come off one by one, as many as there are. -/
theorem runEdges_levelsToCome {n : Nat} {s : State} (hs : s.Inv) (hfree : s.resetFree n)
    (hn : n ≤ s.levelsToCome.length) :
    ∃ t, runEdges n s = .next t ∧ t.Inv ∧ t.levelsToCome = s.levelsToCome.drop n := by
  induction n generalizing s with
  | zero => exact ⟨s, rfl, hs, rfl⟩
  | succ n ih =>
    have hbusy : s.busy = true := by
      rw [← Bool.not_eq_false, ← levelsToCome_eq_nil_iff hs]
      exact List.ne_nil_of_length_pos (by omega)
    obtain ⟨u, hu⟩ := step_next s
    obtain ⟨-, hinputs⟩ := step_params_inputs hu
    obtain ⟨hrst, hfree⟩ := (resetFree_succ_iff hinputs).1 hfree
    obtain ⟨-, -, -, -, hlevels⟩ := noCommandDisturbsATransmission s u hbusy hrst hu
    obtain ⟨t, hrun, ht, hdrop⟩ := ih (everyEdgeKeepsTheRegisterInvariant s u hs hu) hfree (by
      rw [hlevels hs, List.length_tail]
      omega)
    exact ⟨t, by simpa [runEdges, hu] using hrun, ht, by rw [hdrop, hlevels hs, List.drop_tail]⟩

/-- With a level to come the unit is busy, and the level is on the line (R206). -/
theorem busy_of_levelsToCome_getElem? {s : State} {l : Bool} (hs : s.Inv) (h : s.levelsToCome[0]? = some l) :
    s.busy = true ∧ s.lineOut = l := by
  cases hbusy : s.busy with
  | false => simp [levelsToCome_of_idle hbusy] at h
  | true => exact ⟨rfl, by simpa [levelsToCome_serializerStep hs hbusy] using h⟩

/-- The edge that accepts a command sees a command word and no reset (R70, R78). -/
theorem decode_of_acceptedInstr {s : State} {i : Instr} (h : s.acceptedInstr = some i) :
    s.accepts = true ∧ decode s.pins.cmdData = .ok i := by
  cases haccepts : s.accepts with
  | false => simp [State.acceptedInstr, haccepts] at h
  | true =>
    cases hdecode : decode s.pins.cmdData with
    | error e => simp [State.acceptedInstr, haccepts, hdecode] at h
    | ok j => simpa [State.acceptedInstr, haccepts, hdecode] using h

/-- The state after the edge that accepts a sending command, and after `n` more: of the waveform's levels the first `n`
are gone (R205, R206). -/
theorem runEdges_transmission {s : State} {i : Instr} {w : List TriSym} {n : Nat} (hs : s.Inv)
    (haccepted : s.acceptedInstr = some i) (hsent : sentWord s.params i = some w) (hbound : s.bound = true)
    (hrepeat : s.repeatCnt ≠ 0#16) (hfree : s.resetFree (n + 1))
    (hn : n ≤ totalUnits (waveform w s.profile s.repeatCnt.toNat) * unitCyc s.params s.pulseLen) :
    ∃ u, runEdges (n + 1) s = .next u ∧ u.Inv ∧ u.levelsToCome =
      (segLevels (unitCyc s.params s.pulseLen) (waveform w s.profile s.repeatCnt.toNat)).drop n := by
  obtain ⟨haccepts, hdecode⟩ := decode_of_acceptedInstr haccepted
  obtain ⟨t, hexec, hstart⟩ := exec_starts hsent hbound hrepeat
  have hstep := step_of_exec haccepts hdecode hexec
  have hlevels := levelsToCome_of_startedFrom hstart
  obtain ⟨-, hinputs⟩ := step_params_inputs hstep
  obtain ⟨-, hfree⟩ := (resetFree_succ_iff hinputs).1 hfree
  obtain ⟨u, hrun, hu, hdrop⟩ := runEdges_levelsToCome (everyEdgeKeepsTheRegisterInvariant s _ hs hstep) hfree (by
    rwa [levelsToCome_advance, hlevels, segLevels_length])
  exact ⟨u, by simpa [runEdges, hstep] using hrun, hu, by rw [hdrop, levelsToCome_advance, hlevels]⟩

/-- Settles O47: in cycle `c` of the transmission the levels to come are the waveform's from `c` on, and after its last
one none is left. -/
theorem transmissionPlacementInCycles : Obligations.TransmissionPlacementInCycles := by
  intro s i w hs haccepted hsent hbound hrepeat segs unit total hfree
  have hlength : (segLevels unit segs).length = total := segLevels_length unit segs
  have hrun : ∀ c, c ≤ total →
      ∃ u, runEdges (c + 1) s = .next u ∧ u.Inv ∧ u.levelsToCome = (segLevels unit segs).drop c := fun c hc =>
    runEdges_transmission hs haccepted hsent hbound hrepeat (resetFree_mono (by omega) hfree) hc
  refine ⟨congrArg (· * unit) (totalUnits_waveform (sentWord_length hsent) _ _), fun c hc => ?during,
    fun k g hg => segStart_succ hg, ?after⟩
  case during =>
    obtain ⟨u, hu, hinv, hlevels⟩ := hrun c hc.le
    have hhead : u.levelsToCome[0]? = (segLevels unit segs)[c]? := by simp [hlevels]
    obtain ⟨hbusy, -⟩ := busy_of_levelsToCome_getElem? hinv (hhead.trans (List.getElem?_eq_getElem (hlength ▸ hc)))
    refine ⟨u, hu, hbusy, by simp [State.ports, hbusy], not_accepts_of_busy hbusy, fun k g hg hlow hhigh => ?_⟩
    obtain ⟨-, hline⟩ := busy_of_levelsToCome_getElem? hinv (hhead.trans (segLevels_getElem? hg hlow hhigh))
    exact hline
  case after =>
    obtain ⟨u, hu, hinv, hlevels⟩ := hrun total le_rfl
    have hidle : u.busy = false := by
      rw [← levelsToCome_eq_nil_iff hinv, hlevels, ← hlength, List.drop_length]
    obtain ⟨-, -, hlow⟩ := hinv.idleClear hidle
    exact ⟨u, hu, hidle, hlow, by simp [State.ports, hidle], fun hvalid hrst => accepts_iff.2 ⟨hvalid, hidle, hrst⟩⟩

end Sys2Proof.Machine
end

section
/-! SUPPORT. The result codes (60_exceptions.md R250, R251, R255, R259): with which code an accepted word ends, by its
effect and by the ordered checks. -/

namespace Sys2Proof.Machine

open Sys2Proof

/-- Settles O7: a command has a next state, and so has each of the five ways of an edge. -/
theorem nothingFaultsOrIsRefused : Obligations.NothingFaultsOrIsRefused := by
  refine ⟨fun i s => ?command, step_next⟩
  obtain ⟨t, ht, -, -⟩ := exec_next i s
  exact ⟨t, ht⟩

/-- The two ways of an accepting edge: the offered word is a command, or it is illegal (R78, R79). -/
theorem accepting_edge_cases {s t : State} (haccepts : s.accepts = true) (h : step s = .next t) :
    (∃ i u, decode s.pins.cmdData = .ok i ∧ exec i s = .next u ∧ t = u.advance) ∨
    (∃ e, decode s.pins.cmdData = .error e ∧ t = (raiseResult .illegalCmd s).advance) := by
  cases hdecode : decode s.pins.cmdData with
  | ok i =>
    obtain ⟨u, hexec, -, -⟩ := exec_next i s
    cases h.symm.trans (step_of_exec haccepts hdecode hexec)
    exact .inl ⟨i, u, rfl, hexec, rfl⟩
  | error e =>
    rw [step_of_accepts haccepts, acceptWord_of_error hdecode] at h
    cases h
    exact .inr ⟨e, rfl, rfl⟩

/-- A command ends with `OK`, or with one of five codes, each of which has its command, its cause and its whole effect
(R250). -/
theorem CommandOutcome.result_cases {s t : State} {i : Instr} (h : CommandOutcome s i t) :
    t.lastResult = .ok ∨
    (encoderResult s.params i = some .invalid ∧ t = latch .invalid s) ∨
    (∃ n, i = .setProfile n ∧ profileOf n = none ∧ t = raiseResult .badProfile s) ∨
    (i = .setPulseLen 0#16 ∧ t = raiseResult .badPulseLen s) ∨
    (∃ f, i = .sendTristate f ∧ unpack f = none ∧ t = raiseResult .badSymbol s) ∨
    (s.pins.openOk = false ∧ ∃ l, i = .enableTx l ∧
      t = raiseResult .lineFault { s with lineId := l, bound := false }) := by
  cases h with
  | @latches _ r hr =>
    cases r with
    | valid w => exact .inl rfl
    | invalid => exact .inr (.inl ⟨hr, rfl⟩)
  | rejectsProfile hn => exact .inr (.inr (.inl ⟨_, rfl, hn, rfl⟩))
  | rejectsPulseLen => exact .inr (.inr (.inr (.inl ⟨rfl, rfl⟩)))
  | rejectsWord hf => exact .inr (.inr (.inr (.inr (.inl ⟨_, rfl, hf, rfl⟩))))
  | failsToOpen hopen => exact .inr (.inr (.inr (.inr (.inr ⟨hopen, _, rfl, rfl⟩))))
  | _ => exact .inl (by simp)

/-- Settles O51: in each way an accepting edge ends that is not `OK`, the row of its code applies, and the other rows
speak of other codes. -/
theorem resultCodesAndTheirEffects : Obligations.ResultCodesAndTheirEffects := by
  refine ⟨⟨rfl, rfl, rfl, rfl, rfl, rfl, rfl, fun c => by cases c <;> decide⟩, fun s t haccepts h => ?rows⟩
  obtain ⟨-, hidle, -⟩ := accepts_iff.1 haccepts
  rcases accepting_edge_cases haccepts h with ⟨i, u, hdecode, hexec, rfl⟩ | ⟨e, hdecode, rfl⟩
  · have hi : s.acceptedInstr = some i := acceptedInstr_of_decode haccepts hdecode
    rcases (exec_outcome hexec).result_cases with hok | ⟨hinvalid, rfl⟩ | ⟨n, rfl, hn, rfl⟩ | ⟨rfl, rfl⟩ |
      ⟨f, rfl, hf, rfl⟩ | ⟨hopen, l, rfl, rfl⟩
    · simp [hok]
    · exact ⟨fun _ => ⟨⟨i, hi, hinvalid⟩, rfl⟩, nofun, nofun, nofun, nofun, nofun, fun _ => hidle⟩
    · exact ⟨nofun, fun _ => ⟨⟨n, hi, profileOf_eq_none_iff.1 hn⟩, rfl⟩, nofun, nofun, nofun, nofun, fun _ => hidle⟩
    · exact ⟨nofun, nofun, fun _ => ⟨hi, rfl⟩, nofun, nofun, nofun, fun _ => hidle⟩
    · obtain ⟨k, hk, hreserved⟩ := unpack_eq_none_iff.1 hf
      exact ⟨nofun, nofun, nofun, fun _ => ⟨⟨f, k, hi, hk, hreserved⟩, rfl⟩, nofun, nofun, fun _ => hidle⟩
    · exact ⟨nofun, nofun, nofun, nofun, fun _ => ⟨hopen, l, hi, rfl⟩, nofun, fun _ => hidle⟩
  · exact ⟨nofun, nofun, nofun, nofun, nofun, fun _ => ⟨⟨e, hdecode⟩, rfl⟩, fun _ => hidle⟩

/-! The three checks of a command, steps 2 to 4 of R255. -/

theorem argumentCheck_setProfile (n : Byte) :
    argumentCheck (.setProfile n) = if profileOf n = none then some .badProfile else none := by
  simp only [argumentCheck, profileOf_eq_none_iff, ← not_or, ite_not]

theorem argumentCheck_sendTristate (f : CodeField) :
    argumentCheck (.sendTristate f) = if unpack f = none then some .badSymbol else none := by
  simp [argumentCheck, unpack_eq_none_iff]

/-- An encoding command has neither an argument check of its own nor a line to open. -/
theorem checks_of_encoderResult {p : Params} {i : Instr} {r : EncResult} (h : encoderResult p i = some r)
    (openOk : Bool) : argumentCheck i = none ∧ lineCheck openOk i = none := by
  cases i with
  | setProfile | setPulseLen | setRepeat | enableTx | disableTx | sendTristate => cases h
  | _ => exact ⟨rfl, rfl⟩

/-- Only an encoding command fails the encoder check (R26). -/
theorem encoderCheck_ne_none_iff {p : Params} {i : Instr} :
    encoderCheck p i ≠ none ↔ encoderResult p i = some .invalid := by
  simp [encoderCheck]

/-- The line check is that of `ENABLE_TX`, which has no argument check (R173). -/
theorem argumentCheck_or_lineCheck_eq_none (i : Instr) (openOk : Bool) :
    argumentCheck i = none ∨ lineCheck openOk i = none := by
  cases i with
  | enableTx => exact .inl rfl
  | _ => exact .inr rfl

/-- The code of the first check that fails for the command, `OK` where none does (R255). -/
def checkedResult (p : Params) (openOk : Bool) (i : Instr) : ResultCode :=
  (((argumentCheck i).or (encoderCheck p i)).or (lineCheck openOk i)).getD .ok

/-- A word that decodes has passed step 1, so its command's checks decide. -/
theorem orderedResult_of_decode {s : State} {w : CmdWord} {i : Instr} (h : decode w = .ok i) :
    orderedResult s w = checkedResult s.params s.pins.openOk i := by
  simp only [orderedResult, h, checkedResult]
  cases argumentCheck i with
  | some c => rfl
  | none => cases encoderCheck s.params i <;> rfl

theorem checkedResult_of_encoderResult {p : Params} {i : Instr} {r : EncResult} (h : encoderResult p i = some r)
    (openOk : Bool) (s : State) : checkedResult p openOk i = (latch r s).lastResult := by
  obtain ⟨hargument, hline⟩ := checks_of_encoderResult h openOk
  cases r <;> simp [checkedResult, hargument, hline, encoderCheck, h]

/-- The result of a command is the one its checks give (R255). -/
theorem CommandOutcome.lastResult_eq_checkedResult {s t : State} {i : Instr} (h : CommandOutcome s i t) :
    t.lastResult = checkedResult s.params s.pins.openOk i := by
  cases h with
  | latches hr => exact (checkedResult_of_encoderResult hr _ s).symm
  | latchesAndSends hr => rw [transmit_lastResult, checkedResult_of_encoderResult hr _ s]
  | setsProfile hn | rejectsProfile hn =>
    simp [checkedResult, argumentCheck_setProfile, hn, encoderCheck, encoderResult, lineCheck]
  | sends hf | rejectsWord hf =>
    simp [checkedResult, argumentCheck_sendTristate, hf, encoderCheck, encoderResult, lineCheck]
  | setsPulseLen hus => simp [checkedResult, argumentCheck, hus, encoderCheck, encoderResult, lineCheck]
  | opensLine hopen | failsToOpen hopen =>
    simp [checkedResult, argumentCheck, encoderCheck, encoderResult, lineCheck, hopen]
  | rejectsPulseLen | setsRepeat | unbinds => rfl

/-- Settles O52: an accepted word is illegal, which is step 1, or its command ends with the result of its checks and
sends nothing while unbound or with `REPEAT = 0`; no command has two of the three checks. -/
theorem checksGiveTheResultInOrder : Obligations.ChecksGiveTheResultInOrder := by
  refine ⟨fun s haccepts => ?result, fun i p openOk => ?exclusive⟩
  case result =>
    obtain ⟨-, hidle, -⟩ := accepts_iff.1 haccepts
    obtain ⟨t, h⟩ := step_next s
    refine ⟨t, h, ?_⟩
    rcases accepting_edge_cases haccepts h with ⟨i, u, hdecode, hexec, rfl⟩ | ⟨e, hdecode, rfl⟩
    · rw [orderedResult_of_decode hdecode]
      exact ⟨(exec_outcome hexec).lastResult_eq_checkedResult, fun hquiet =>
        (advance_busy u).trans (exec_stays_idle hquiet hidle hexec)⟩
    · exact ⟨by simp [orderedResult, hdecode], fun _ => hidle⟩
  case exclusive =>
    have hencoder : encoderCheck p i ≠ none → argumentCheck i = none ∧ lineCheck openOk i = none := fun h =>
      checks_of_encoderResult (encoderCheck_ne_none_iff.1 h) openOk
    have hline := argumentCheck_or_lineCheck_eq_none i openOk
    tauto

end Sys2Proof.Machine
end

section
/-! SUPPORT. What an edge does with reset high or with the serializer running does not depend on the other ports
(60_exceptions.md R256; 70_reset_and_hazards.md R290). -/

namespace Sys2Proof.Machine

open Sys2Proof

/-- The serializer step reads and writes no port (R206). -/
theorem serializerStep_with_inputs (s : State) (xs : List PortIn) :
    serializerStep { s with inputs := xs } = { serializerStep s with inputs := xs } := by
  rcases serializerStep_cases s with ⟨h, e⟩ | ⟨h, g, rest, hsegs, e⟩ | ⟨h, hsegs, e⟩ <;> rw [e]
  · exact serializerStep_inside h
  · exact serializerStep_nextSegment h hsegs
  · exact serializerStep_last h hsegs

/-- With reset high the edge ends in the reset values whatever the cycle carries (R290). -/
theorem step_reset_with_inputs (s : State) {x : PortIn} (rest : List PortIn) (hrst : x.rst = true) :
    step { s with inputs := x :: rest } = .next { State.reset with params := s.params, inputs := rest } :=
  step_of_reset hrst

/-- A busy unit's edge without reset ends in one state whatever else the cycle carries (R256). -/
theorem step_busy_with_inputs {s : State} {x : PortIn} (rest : List PortIn) (hbusy : s.busy = true)
    (hrst : x.rst = false) :
    step { s with inputs := x :: rest } = .next { serializerStep s with inputs := rest } := by
  have hstep := step_of_busy (s := { s with inputs := x :: rest }) hbusy hrst
  rwa [serializerStep_with_inputs] at hstep

/-- Settles O10: in both situations the edge has one result, and a busy unit accepts nothing. -/
theorem resetWinsThenTheSerializer : Obligations.ResetWinsThenTheSerializer := by
  refine fun s x y rest => ⟨fun hx hy => ?reset, fun hbusy hx hy => ?busy⟩
  case reset =>
    exact ⟨(step_reset_with_inputs s rest hx).trans (step_reset_with_inputs s rest hy).symm,
      step_reset_with_inputs s rest hx⟩
  case busy =>
    have hnot : State.accepts { s with inputs := x :: rest } = false := not_accepts_of_busy hbusy
    exact ⟨hnot, by simp [State.acceptedInstr, hnot],
      (step_busy_with_inputs rest hbusy hx).trans (step_busy_with_inputs rest hbusy hy).symm⟩

end Sys2Proof.Machine
end

section
/-! SUPPORT. The units that drive a physical line, and the level they give it (60_exceptions.md R261, R262, R264; log
entry 8). -/

namespace Sys2Proof.Machine

open Sys2Proof

/-- The units that drive a physical line, with their numbers (R261). -/
def System.drivers (sys : System) (lineOf : LineMap) (line : Nat) : List (State × Nat) :=
  sys.units.zipIdx.filter fun u => drives lineOf line u.2 u.1

/-- The driven levels from a unit number on are those of the driving units from there. -/
theorem drivenLevels_eq_map (lineOf : LineMap) (line k : Nat) (units : List State) :
    drivenLevels lineOf line k units =
      ((units.zipIdx k).filter fun u => drives lineOf line u.2 u.1).map fun u => u.1.lineOut := by
  induction units generalizing k with
  | nil => rfl
  | cons s units ih => cases hd : drives lineOf line k s <;> simp [drivenLevels, hd, ih]

section Drivers

variable {sys : System} {lineOf : LineMap} {line : Nat}

theorem drivenLevels_eq_drivers :
    drivenLevels lineOf line 0 sys.units = (sys.drivers lineOf line).map fun u => u.1.lineOut :=
  drivenLevels_eq_map lineOf line 0 sys.units

theorem mem_drivers {s : State} {k : Nat} :
    (s, k) ∈ sys.drivers lineOf line ↔ sys.units[k]? = some s ∧ drives lineOf line k s = true := by
  simp [System.drivers, List.mem_zipIdx_iff_getElem?]

/-- No two drivers have one number. -/
theorem nodup_drivers : (sys.drivers lineOf line).Nodup :=
  (List.nodup_zipIdx_map_snd sys.units).of_map.filter _

theorem drivers_eq_nil (h : ∀ k s, sys.units[k]? = some s → drives lineOf line k s = false) :
    sys.drivers lineOf line = [] := by
  refine List.eq_nil_iff_forall_not_mem.2 fun ⟨s, k⟩ hmem => ?_
  obtain ⟨hs, hdrives⟩ := mem_drivers.1 hmem
  simp [h k s hs] at hdrives

theorem drivers_eq_singleton {s : State} {k : Nat} (hmem : (s, k) ∈ sys.drivers lineOf line)
    (honly : ∀ j u, sys.units[j]? = some u → drives lineOf line j u = true → j = k) :
    sys.drivers lineOf line = [(s, k)] := by
  refine List.perm_singleton.1 ((List.perm_ext_iff_of_nodup nodup_drivers (List.nodup_singleton _)).2 ?_)
  rintro ⟨u, j⟩
  rw [List.mem_singleton]
  constructor
  · intro hu
    obtain ⟨hs, -⟩ := mem_drivers.1 hmem
    obtain ⟨hunit, hdrives⟩ := mem_drivers.1 hu
    obtain rfl := honly j u hunit hdrives
    cases hs.symm.trans hunit
    rfl
  · rintro ⟨⟩
    exact hmem

/-! The level of a line by the number of its drivers. -/

theorem wire_of_no_driver (h : sys.drivers lineOf line = []) : sys.wire lineOf line = .next none := by
  simp [System.wire, drivenLevels_eq_drivers, h]

theorem wire_of_one_driver {u : State × Nat} (h : sys.drivers lineOf line = [u]) :
    sys.wire lineOf line = .next (some u.1.lineOut) := by
  simp [System.wire, drivenLevels_eq_drivers, h]

theorem wire_of_two_drivers {u v : State × Nat} (hu : u ∈ sys.drivers lineOf line) (hv : v ∈ sys.drivers lineOf line)
    (huv : u ≠ v) : sys.wire lineOf line = .fault .lineShared := by
  rcases hd : sys.drivers lineOf line with _ | ⟨a, _ | ⟨b, rest⟩⟩ <;> rw [hd] at hu hv
  · cases hu
  · exact absurd ((List.mem_singleton.1 hu).trans (List.mem_singleton.1 hv).symm) huv
  · simp [System.wire, drivenLevels_eq_drivers, hd]

end Drivers

/-- Settles O54: the three conditions are those of no driver, one driver and two drivers. -/
theorem onlyOneUnitGivesALineItsLevel : Obligations.OnlyOneUnitGivesALineItsLevel := by
  refine fun sys lineOf line => ⟨fun hnone => wire_of_no_driver (drivers_eq_nil hnone), fun k s hs hdrives honly =>
    wire_of_one_driver (drivers_eq_singleton (mem_drivers.2 ⟨hs, hdrives⟩) honly), fun j k s u hs hu hjk hj hk => ?two⟩
  have hne : (s, j) ≠ (u, k) := fun e => hjk (congrArg Prod.snd e)
  exact wire_of_two_drivers (mem_drivers.2 ⟨hs, hj⟩) (mem_drivers.2 ⟨hu, hk⟩) hne

end Sys2Proof.Machine
end

section
/-! SUPPORT. The edge with reset high: what it refuses, and what the registers and ports read after it
(70_reset_and_hazards.md R290; 10_state.md R20, R30). -/

namespace Sys2Proof.Machine

open Sys2Proof

/-- An edge with reset high accepts nothing (R70). -/
theorem not_accepts_of_rst {s : State} (h : s.pins.rst = true) : s.accepts = false := by
  simp [State.accepts, h]

/-- `STATUS` reads the registers alone, so neither the parameters nor the schedule shows in it (R31). -/
theorem resetRegisters_status (s : State) : (resetRegisters s).status = 0x00000004#32 :=
  reset_status

/-- The ports show the registers alone, not the schedule that the end of a cycle moves on (R30). -/
@[simp] theorem advance_ports (s : State) : s.advance.ports = s.ports := rfl

/-- The ports after a reset edge, as R290 lists them. -/
theorem resetRegisters_ports (s : State) :
    (resetRegisters s).ports =
      { cmdReady := true, lineOut := false, lineOe := false, lineSel := 0#8, status := 0x00000004#32,
        cfgPulseLen := 350#16, cfgRepeat := 10#16, lastWord := 0xFFFFFF#24 } := by
  simp [State.ports, resetRegisters_status]

/-- Settles O1: the reset edge leads to the reset registers at the end of the cycle, which are read field by field. -/
theorem resetEdgeRestoresEveryRegister : Obligations.ResetEdgeRestoresEveryRegister := by
  intro s hrst
  refine ⟨not_accepts_of_rst hrst, (resetRegisters s).advance, step_of_reset hrst, ?_⟩
  simp [resetRegisters_ports, Profile.code, ResultCode.code]

end Sys2Proof.Machine
end
